-- ==== Sys2Proof/Word.lean ====
section
/-! DEFINITION. The widths of the machine (00_scope.md R7, R8; 10_state.md R30, R34): 64-bit registers
and addresses, 32-bit instruction words, bytes, and the index of a register of a 32-entry bank. -/

namespace Sys2Proof

/-- The value of a general register (`XLEN`, 00_scope.md R7). -/
abbrev Word := BitVec 64

/-- A value of the program counter (10_state.md R34): `PC_WIDTH` bits of it, all 64 by default (00_scope.md
R8; log 21). -/
abbrev PcWord := BitVec 64

/-- A virtual address (10_state.md R63; 20_memory.md R83). An effective address is `EA_WIDTH` bits of it, all
64 by default (00_scope.md R8; log 21). -/
abbrev EffAddr := BitVec 64

/-- A value of a floating-point register (10_state.md R51): `FPR_WIDTH` bits of it, all 64 by default
(00_scope.md R8; log 21). -/
abbrev FprWord := BitVec 64

/-- A slot of the system-control block (10_state.md R40): `CP0_SLOT_WIDTH` bits of it, all 64 by default
(00_scope.md R8; log 21). -/
abbrev Cp0Word := BitVec 64

/-- One byte of a memory, of the cartridge image or of a port transfer. -/
abbrev Byte := BitVec 8

/-- One 32-bit instruction word (`ILEN`, 30_encoding.md R130). -/
abbrev InstrWord := BitVec 32

/-- A register number 0 to 31: general, floating-point, system-control or floating-point control. -/
abbrev RegIdx := Fin 32

end Sys2Proof
end

