-- ==== Sys2Proof/Syntax.lean ====
section
/-! DEFINITION. The syntax: `Instr`, one constructor per row of the opcode table, and the decoder's
intermediate representation of 30_encoding.md R140 to R148 (`IrOp`, `Decoded`).

The IR types carry the relations that R141 to R147 put on the fields: a `Loc` of the spec is split
by where it may stand (`DataReg`, `AluDest`, `CopReg`, the cases of `Opnd`), and fields that are
present together are the arguments of one constructor. -/

namespace Sys2Proof

/-- One constructor per row of the opcode table, with the fields that row names, in its order. The
fields a row does not name are ignored by the decoder (30_encoding.md R156) and stand nowhere here. -/
inductive Instr where
  /-- `LB` (41_load_store.md R224) -/
  | lb (base : RegIdx) (rt : RegIdx) (offset : BitVec 16)
  /-- `LBU` (41_load_store.md R225) -/
  | lbu (base : RegIdx) (rt : RegIdx) (offset : BitVec 16)
  /-- `LH` (41_load_store.md R226) -/
  | lh (base : RegIdx) (rt : RegIdx) (offset : BitVec 16)
  /-- `LHU` (41_load_store.md R227) -/
  | lhu (base : RegIdx) (rt : RegIdx) (offset : BitVec 16)
  /-- `LW` (41_load_store.md R228) -/
  | lw (base : RegIdx) (rt : RegIdx) (offset : BitVec 16)
  /-- `LWU` (41_load_store.md R229) -/
  | lwu (base : RegIdx) (rt : RegIdx) (offset : BitVec 16)
  /-- `LD` (41_load_store.md R230) -/
  | ld (base : RegIdx) (rt : RegIdx) (offset : BitVec 16)
  /-- `LWL` (41_load_store.md R232) -/
  | lwl (base : RegIdx) (rt : RegIdx) (offset : BitVec 16)
  /-- `LWR` (41_load_store.md R233) -/
  | lwr (base : RegIdx) (rt : RegIdx) (offset : BitVec 16)
  /-- `LDL` (41_load_store.md R234) -/
  | ldl (base : RegIdx) (rt : RegIdx) (offset : BitVec 16)
  /-- `LDR` (41_load_store.md R235) -/
  | ldr (base : RegIdx) (rt : RegIdx) (offset : BitVec 16)
  /-- `LL` (41_load_store.md R236) -/
  | ll (base : RegIdx) (rt : RegIdx) (offset : BitVec 16)
  /-- `LLD` (41_load_store.md R237) -/
  | lld (base : RegIdx) (rt : RegIdx) (offset : BitVec 16)
  /-- `LWC1` (41_load_store.md R238) -/
  | lwc1 (base : RegIdx) (ft : RegIdx) (offset : BitVec 16)
  /-- `LDC1` (41_load_store.md R239) -/
  | ldc1 (base : RegIdx) (ft : RegIdx) (offset : BitVec 16)
  /-- `LUI` (41_load_store.md R231) -/
  | lui (rt : RegIdx) (imm : BitVec 16)
  /-- `SB` (41_load_store.md R242) -/
  | sb (base : RegIdx) (rt : RegIdx) (offset : BitVec 16)
  /-- `SH` (41_load_store.md R243) -/
  | sh (base : RegIdx) (rt : RegIdx) (offset : BitVec 16)
  /-- `SW` (41_load_store.md R244) -/
  | sw (base : RegIdx) (rt : RegIdx) (offset : BitVec 16)
  /-- `SD` (41_load_store.md R245) -/
  | sd (base : RegIdx) (rt : RegIdx) (offset : BitVec 16)
  /-- `SWL` (41_load_store.md R248) -/
  | swl (base : RegIdx) (rt : RegIdx) (offset : BitVec 16)
  /-- `SWR` (41_load_store.md R249) -/
  | swr (base : RegIdx) (rt : RegIdx) (offset : BitVec 16)
  /-- `SDL` (41_load_store.md R250) -/
  | sdl (base : RegIdx) (rt : RegIdx) (offset : BitVec 16)
  /-- `SDR` (41_load_store.md R251) -/
  | sdr (base : RegIdx) (rt : RegIdx) (offset : BitVec 16)
  /-- `SC` (41_load_store.md R252) -/
  | sc (base : RegIdx) (rt : RegIdx) (offset : BitVec 16)
  /-- `SCD` (41_load_store.md R253) -/
  | scd (base : RegIdx) (rt : RegIdx) (offset : BitVec 16)
  /-- `SWC1` (41_load_store.md R246) -/
  | swc1 (base : RegIdx) (ft : RegIdx) (offset : BitVec 16)
  /-- `SDC1` (41_load_store.md R247) -/
  | sdc1 (base : RegIdx) (ft : RegIdx) (offset : BitVec 16)
  /-- `ADDI` (42_alu_arith_logic.md R275) -/
  | addi (rs : RegIdx) (rt : RegIdx) (imm : BitVec 16)
  /-- `ADDIU` (42_alu_arith_logic.md R276) -/
  | addiu (rs : RegIdx) (rt : RegIdx) (imm : BitVec 16)
  /-- `SLTI` (42_alu_arith_logic.md R277) -/
  | slti (rs : RegIdx) (rt : RegIdx) (imm : BitVec 16)
  /-- `SLTIU` (42_alu_arith_logic.md R278) -/
  | sltiu (rs : RegIdx) (rt : RegIdx) (imm : BitVec 16)
  /-- `ANDI` (42_alu_arith_logic.md R279) -/
  | andi (rs : RegIdx) (rt : RegIdx) (imm : BitVec 16)
  /-- `ORI` (42_alu_arith_logic.md R280) -/
  | ori (rs : RegIdx) (rt : RegIdx) (imm : BitVec 16)
  /-- `XORI` (42_alu_arith_logic.md R281) -/
  | xori (rs : RegIdx) (rt : RegIdx) (imm : BitVec 16)
  /-- `DADDI` (42_alu_arith_logic.md R282) -/
  | daddi (rs : RegIdx) (rt : RegIdx) (imm : BitVec 16)
  /-- `DADDIU` (42_alu_arith_logic.md R283) -/
  | daddiu (rs : RegIdx) (rt : RegIdx) (imm : BitVec 16)
  /-- `BEQ` (44_control_flow.md R380) -/
  | beq (rs : RegIdx) (rt : RegIdx) (imm : BitVec 16)
  /-- `BNE` (44_control_flow.md R381) -/
  | bne (rs : RegIdx) (rt : RegIdx) (imm : BitVec 16)
  /-- `BEQL` (44_control_flow.md R384) -/
  | beql (rs : RegIdx) (rt : RegIdx) (imm : BitVec 16)
  /-- `BNEL` (44_control_flow.md R385) -/
  | bnel (rs : RegIdx) (rt : RegIdx) (imm : BitVec 16)
  /-- `BLEZ` (44_control_flow.md R382) -/
  | blez (rs : RegIdx) (imm : BitVec 16)
  /-- `BGTZ` (44_control_flow.md R383) -/
  | bgtz (rs : RegIdx) (imm : BitVec 16)
  /-- `BLEZL` (44_control_flow.md R386) -/
  | blezl (rs : RegIdx) (imm : BitVec 16)
  /-- `BGTZL` (44_control_flow.md R387) -/
  | bgtzl (rs : RegIdx) (imm : BitVec 16)
  /-- `CACHE` (46_system.md R430) -/
  | cache (base : RegIdx) (cop : BitVec 5) (offset : BitVec 16)
  /-- `J` (44_control_flow.md R376) -/
  | j (index : BitVec 26)
  /-- `JAL` (44_control_flow.md R377) -/
  | jal (index : BitVec 26)
  /-- `SLL` (43_alu_shift_muldiv.md R335) -/
  | sll (rt : RegIdx) (rd : RegIdx) (sa : BitVec 5)
  /-- `SRL` (43_alu_shift_muldiv.md R336) -/
  | srl (rt : RegIdx) (rd : RegIdx) (sa : BitVec 5)
  /-- `SRA` (43_alu_shift_muldiv.md R337) -/
  | sra (rt : RegIdx) (rd : RegIdx) (sa : BitVec 5)
  /-- `DSLL` (43_alu_shift_muldiv.md R341) -/
  | dsll (rt : RegIdx) (rd : RegIdx) (sa : BitVec 5)
  /-- `DSRL` (43_alu_shift_muldiv.md R342) -/
  | dsrl (rt : RegIdx) (rd : RegIdx) (sa : BitVec 5)
  /-- `DSRA` (43_alu_shift_muldiv.md R343) -/
  | dsra (rt : RegIdx) (rd : RegIdx) (sa : BitVec 5)
  /-- `DSLL32` (43_alu_shift_muldiv.md R344) -/
  | dsll32 (rt : RegIdx) (rd : RegIdx) (sa : BitVec 5)
  /-- `DSRL32` (43_alu_shift_muldiv.md R345) -/
  | dsrl32 (rt : RegIdx) (rd : RegIdx) (sa : BitVec 5)
  /-- `DSRA32` (43_alu_shift_muldiv.md R346) -/
  | dsra32 (rt : RegIdx) (rd : RegIdx) (sa : BitVec 5)
  /-- `SLLV` (43_alu_shift_muldiv.md R338) -/
  | sllv (rs : RegIdx) (rt : RegIdx) (rd : RegIdx)
  /-- `SRLV` (43_alu_shift_muldiv.md R339) -/
  | srlv (rs : RegIdx) (rt : RegIdx) (rd : RegIdx)
  /-- `SRAV` (43_alu_shift_muldiv.md R340) -/
  | srav (rs : RegIdx) (rt : RegIdx) (rd : RegIdx)
  /-- `DSLLV` (43_alu_shift_muldiv.md R347) -/
  | dsllv (rs : RegIdx) (rt : RegIdx) (rd : RegIdx)
  /-- `DSRLV` (43_alu_shift_muldiv.md R348) -/
  | dsrlv (rs : RegIdx) (rt : RegIdx) (rd : RegIdx)
  /-- `DSRAV` (43_alu_shift_muldiv.md R349) -/
  | dsrav (rs : RegIdx) (rt : RegIdx) (rd : RegIdx)
  /-- `ADD` (42_alu_arith_logic.md R284) -/
  | add (rs : RegIdx) (rt : RegIdx) (rd : RegIdx)
  /-- `ADDU` (42_alu_arith_logic.md R285) -/
  | addu (rs : RegIdx) (rt : RegIdx) (rd : RegIdx)
  /-- `SUB` (42_alu_arith_logic.md R286) -/
  | sub (rs : RegIdx) (rt : RegIdx) (rd : RegIdx)
  /-- `SUBU` (42_alu_arith_logic.md R287) -/
  | subu (rs : RegIdx) (rt : RegIdx) (rd : RegIdx)
  /-- `AND` (42_alu_arith_logic.md R288) -/
  | and (rs : RegIdx) (rt : RegIdx) (rd : RegIdx)
  /-- `OR` (42_alu_arith_logic.md R289) -/
  | or (rs : RegIdx) (rt : RegIdx) (rd : RegIdx)
  /-- `XOR` (42_alu_arith_logic.md R290) -/
  | xor (rs : RegIdx) (rt : RegIdx) (rd : RegIdx)
  /-- `NOR` (42_alu_arith_logic.md R291) -/
  | nor (rs : RegIdx) (rt : RegIdx) (rd : RegIdx)
  /-- `SLT` (42_alu_arith_logic.md R292) -/
  | slt (rs : RegIdx) (rt : RegIdx) (rd : RegIdx)
  /-- `SLTU` (42_alu_arith_logic.md R293) -/
  | sltu (rs : RegIdx) (rt : RegIdx) (rd : RegIdx)
  /-- `DADD` (42_alu_arith_logic.md R294) -/
  | dadd (rs : RegIdx) (rt : RegIdx) (rd : RegIdx)
  /-- `DADDU` (42_alu_arith_logic.md R295) -/
  | daddu (rs : RegIdx) (rt : RegIdx) (rd : RegIdx)
  /-- `DSUB` (42_alu_arith_logic.md R296) -/
  | dsub (rs : RegIdx) (rt : RegIdx) (rd : RegIdx)
  /-- `DSUBU` (42_alu_arith_logic.md R297) -/
  | dsubu (rs : RegIdx) (rt : RegIdx) (rd : RegIdx)
  /-- `MULT` (43_alu_shift_muldiv.md R350) -/
  | mult (rs : RegIdx) (rt : RegIdx)
  /-- `MULTU` (43_alu_shift_muldiv.md R351) -/
  | multu (rs : RegIdx) (rt : RegIdx)
  /-- `DIV` (43_alu_shift_muldiv.md R352) -/
  | div (rs : RegIdx) (rt : RegIdx)
  /-- `DIVU` (43_alu_shift_muldiv.md R353) -/
  | divu (rs : RegIdx) (rt : RegIdx)
  /-- `DMULT` (43_alu_shift_muldiv.md R354) -/
  | dmult (rs : RegIdx) (rt : RegIdx)
  /-- `DMULTU` (43_alu_shift_muldiv.md R355) -/
  | dmultu (rs : RegIdx) (rt : RegIdx)
  /-- `DDIV` (43_alu_shift_muldiv.md R356) -/
  | ddiv (rs : RegIdx) (rt : RegIdx)
  /-- `DDIVU` (43_alu_shift_muldiv.md R357) -/
  | ddivu (rs : RegIdx) (rt : RegIdx)
  /-- `MFHI` (43_alu_shift_muldiv.md R358) -/
  | mfhi (rd : RegIdx)
  /-- `MFLO` (43_alu_shift_muldiv.md R360) -/
  | mflo (rd : RegIdx)
  /-- `MTHI` (43_alu_shift_muldiv.md R359) -/
  | mthi (rs : RegIdx)
  /-- `MTLO` (43_alu_shift_muldiv.md R361) -/
  | mtlo (rs : RegIdx)
  /-- `JR` (44_control_flow.md R378) -/
  | jr (rs : RegIdx)
  /-- `JALR` (44_control_flow.md R379) -/
  | jalr (rs : RegIdx) (rd : RegIdx)
  /-- `SYSCALL` (46_system.md R431) -/
  | syscall (code : BitVec 20)
  /-- `BREAK` (46_system.md R432) -/
  | brk (code : BitVec 20)
  /-- `SYNC` (46_system.md R433) -/
  | sync
  /-- `TGE` (46_system.md R435) -/
  | tge (rs : RegIdx) (rt : RegIdx)
  /-- `TGEU` (46_system.md R436) -/
  | tgeu (rs : RegIdx) (rt : RegIdx)
  /-- `TLT` (46_system.md R437) -/
  | tlt (rs : RegIdx) (rt : RegIdx)
  /-- `TLTU` (46_system.md R438) -/
  | tltu (rs : RegIdx) (rt : RegIdx)
  /-- `TEQ` (46_system.md R439) -/
  | teq (rs : RegIdx) (rt : RegIdx)
  /-- `TNE` (46_system.md R440) -/
  | tne (rs : RegIdx) (rt : RegIdx)
  /-- `BLTZ` (44_control_flow.md R388) -/
  | bltz (rs : RegIdx) (imm : BitVec 16)
  /-- `BGEZ` (44_control_flow.md R389) -/
  | bgez (rs : RegIdx) (imm : BitVec 16)
  /-- `BLTZL` (44_control_flow.md R390) -/
  | bltzl (rs : RegIdx) (imm : BitVec 16)
  /-- `BGEZL` (44_control_flow.md R391) -/
  | bgezl (rs : RegIdx) (imm : BitVec 16)
  /-- `BLTZAL` (44_control_flow.md R392) -/
  | bltzal (rs : RegIdx) (imm : BitVec 16)
  /-- `BGEZAL` (44_control_flow.md R393) -/
  | bgezal (rs : RegIdx) (imm : BitVec 16)
  /-- `BLTZALL` (44_control_flow.md R394) -/
  | bltzall (rs : RegIdx) (imm : BitVec 16)
  /-- `BGEZALL` (44_control_flow.md R395) -/
  | bgezall (rs : RegIdx) (imm : BitVec 16)
  /-- `TGEI` (46_system.md R441) -/
  | tgei (rs : RegIdx) (imm : BitVec 16)
  /-- `TGEIU` (46_system.md R442) -/
  | tgeiu (rs : RegIdx) (imm : BitVec 16)
  /-- `TLTI` (46_system.md R443) -/
  | tlti (rs : RegIdx) (imm : BitVec 16)
  /-- `TLTIU` (46_system.md R444) -/
  | tltiu (rs : RegIdx) (imm : BitVec 16)
  /-- `TEQI` (46_system.md R445) -/
  | teqi (rs : RegIdx) (imm : BitVec 16)
  /-- `TNEI` (46_system.md R446) -/
  | tnei (rs : RegIdx) (imm : BitVec 16)
  /-- `MFC0` (45_move.md R412) -/
  | mfc0 (rt : RegIdx) (rd : RegIdx)
  /-- `DMFC0` (45_move.md R413) -/
  | dmfc0 (rt : RegIdx) (rd : RegIdx)
  /-- `MTC0` (45_move.md R414) -/
  | mtc0 (rt : RegIdx) (rd : RegIdx)
  /-- `DMTC0` (45_move.md R415) -/
  | dmtc0 (rt : RegIdx) (rd : RegIdx)
  /-- `TLBR` (46_system.md R450) -/
  | tlbr
  /-- `TLBWI` (46_system.md R451) -/
  | tlbwi
  /-- `TLBWR` (46_system.md R452) -/
  | tlbwr
  /-- `TLBP` (46_system.md R453) -/
  | tlbp
  /-- `ERET` (46_system.md R454) -/
  | eret
  /-- `MFC1` (45_move.md R416) -/
  | mfc1 (rt : RegIdx) (fs : RegIdx)
  /-- `DMFC1` (45_move.md R417) -/
  | dmfc1 (rt : RegIdx) (fs : RegIdx)
  /-- `CFC1` (45_move.md R422) -/
  | cfc1 (rt : RegIdx) (fs : RegIdx)
  /-- `MTC1` (45_move.md R418) -/
  | mtc1 (rt : RegIdx) (fs : RegIdx)
  /-- `DMTC1` (45_move.md R419) -/
  | dmtc1 (rt : RegIdx) (fs : RegIdx)
  /-- `CTC1` (45_move.md R423) -/
  | ctc1 (rt : RegIdx) (fs : RegIdx)
  /-- `BC1F` (44_control_flow.md R398) -/
  | bc1f (imm : BitVec 16)
  /-- `BC1T` (44_control_flow.md R399) -/
  | bc1t (imm : BitVec 16)
  /-- `BC1FL` (44_control_flow.md R400) -/
  | bc1fl (imm : BitVec 16)
  /-- `BC1TL` (44_control_flow.md R401) -/
  | bc1tl (imm : BitVec 16)
  /-- `COP1.S` (46_system.md R457) -/
  | cop1S
  /-- `COP1.D` (46_system.md R457) -/
  | cop1D
  /-- `COP1.W` (46_system.md R457) -/
  | cop1W
  /-- `COP1.L` (46_system.md R457) -/
  | cop1L
  deriving DecidableEq, Repr

/-- `dest` of a Load and `source` of a Store: the `G` and `F` cases of `Loc` (30_encoding.md R141, R143). -/
inductive DataReg where
  /-- a general register -/
  | g (i : RegIdx)
  /-- a floating-point register -/
  | f (i : RegIdx)
  deriving DecidableEq, Repr

/-- The coprocessor side of a Move: the `C0`, `F` and `FC` cases of `Loc` (30_encoding.md R141, R147). -/
inductive CopReg where
  /-- a system-control register -/
  | c0 (i : RegIdx)
  /-- a floating-point register -/
  | f (i : RegIdx)
  /-- a floating-point control register -/
  | fc (i : RegIdx)
  deriving DecidableEq, Repr

/-- The number of bits a Load or Store moves (30_encoding.md R142). -/
inductive Bits where
  | b8
  | b16
  | b32
  | b64
  deriving DecidableEq, Repr

/-- How a loaded value narrower than 64 bits is extended (30_encoding.md R142). -/
inductive Ext where
  /-- sign-extended -/
  | s
  /-- zero-extended -/
  | z
  deriving DecidableEq, Repr

/-- `Width = W(bits, ext)` (30_encoding.md R142). -/
structure Width where
  bits : Bits
  ext : Ext
  deriving DecidableEq, Repr

/-- `base`, `offset` and `immediateSource` of a Load: `immediateSource` is present exactly when `base`
is not, and `offset` exactly when `base` is (30_encoding.md R143). -/
inductive LoadSource where
  /-- `base = Some(base)`, `offset = Some(offset)`, the offset already sign-extended -/
  | based (base : RegIdx) (offset : Word)
  /-- `immediateSource = Some(v)` -/
  | immediate (v : BitVec 32)
  deriving DecidableEq, Repr

/-- The IR variant `Load` (30_encoding.md R140, R143). -/
structure LoadOp where
  width : Width
  dest : DataReg
  source : LoadSource
  conditional : Bool
  aligned : Bool
  deriving DecidableEq, Repr

/-- The IR variant `Store` (30_encoding.md R140, R143). -/
structure StoreOp where
  width : Width
  source : DataReg
  base : RegIdx
  offset : Word
  conditional : Bool
  aligned : Bool
  deriving DecidableEq, Repr

/-- An operand `Opnd` of an ALU or Trap operation (30_encoding.md R144): `Reg(G(i))`, `Reg(HI)`,
`Reg(LO)`, `Imm(v)` with `v` already extended, or `Sa(s)` with `s` from 0 to 63. -/
inductive Opnd where
  | reg (i : RegIdx)
  | hi
  | lo
  | imm (v : Word)
  | sa (s : BitVec 6)
  deriving DecidableEq, Repr

/-- The destination of an ALU operation that writes one value (30_encoding.md R144). -/
inductive AluDest where
  | g (i : RegIdx)
  | hi
  | lo
  deriving DecidableEq, Repr

/-- The `opKind` values of an ALU operation that yields one value (30_encoding.md R144); the suffix
`T` marks the kinds that trap on signed overflow. -/
inductive AluKind where
  | add32T
  | add32
  | sub32T
  | sub32
  | add64T
  | add64
  | sub64T
  | sub64
  | and
  | or
  | xor
  | nor
  | slt
  | sltu
  | sll32
  | srl32
  | sra32
  | sll64
  | srl64
  | sra64
  | copy
  deriving DecidableEq, Repr

/-- The `opKind` values of an ALU operation that yields the pair `HILO` (30_encoding.md R144). -/
inductive MulDivKind where
  | mult32
  | multu32
  | div32
  | divu32
  | mult64
  | multu64
  | div64
  | divu64
  deriving DecidableEq, Repr

/-- The IR variant `ALU` for the kinds that yield one value (30_encoding.md R144). -/
structure AluOp where
  kind : AluKind
  dest : AluDest
  src1 : Option Opnd
  src2 : Opnd
  deriving DecidableEq, Repr

/-- The IR variant `ALU` with `dest = HILO`, the multiply and divide kinds (30_encoding.md R144). -/
structure MulDivOp where
  kind : MulDivKind
  src1 : Opnd
  src2 : Opnd
  deriving DecidableEq, Repr

/-- The condition of a ControlFlow operation (30_encoding.md R146); the coprocessor conditions read `CC1`. -/
inductive Cond where
  | always
  | copTrue
  | copFalse
  | eq (a b : RegIdx)
  | ne (a b : RegIdx)
  | ltz (a : RegIdx)
  | gez (a : RegIdx)
  | lez (a : RegIdx)
  | gtz (a : RegIdx)
  deriving DecidableEq, Repr

/-- `destination` and `register` of a ControlFlow operation: `register` is present exactly when the
destination is `InReg` (30_encoding.md R146). -/
inductive Target where
  | abs (index : BitVec 26)
  /-- a signed, already scaled offset -/
  | rel (offset : Word)
  | inReg (i : RegIdx)
  deriving DecidableEq, Repr

/-- The IR variant `ControlFlow` (30_encoding.md R146). -/
structure CfOp where
  condition : Cond
  destination : Target
  likely : Bool
  link : Option RegIdx
  deriving DecidableEq, Repr

/-- The IR variant `Move`: exactly one of `src` and `dest` is a general register (30_encoding.md R147). -/
inductive MoveOp where
  /-- `Move{src = a coprocessor register, dest = G(dest)}` -/
  | fromCop (src : CopReg) (dest : RegIdx)
  /-- `Move{src = G(src), dest = a coprocessor register}` -/
  | toCop (src : RegIdx) (dest : CopReg)
  deriving DecidableEq, Repr

/-- The condition of a conditional trap (30_encoding.md R147). -/
inductive TrapCond where
  | ge
  | geu
  | lt
  | ltu
  | eq
  | ne
  deriving DecidableEq, Repr

/-- The IR variant `System` (30_encoding.md R147). -/
inductive SystemOp where
  | cache (cop : BitVec 5) (base : RegIdx) (offset : Word)
  | syscall (code : BitVec 20)
  | brk (code : BitVec 20)
  | sync
  | trap (cond : TrapCond) (a : RegIdx) (b : Opnd)
  | tlbr
  | tlbwi
  | tlbwr
  | tlbp
  | eret
  deriving DecidableEq, Repr

/-- An IR operation, the closed variant type of 30_encoding.md R140. -/
inductive IrOp where
  | load (op : LoadOp)
  | store (op : StoreOp)
  | alu (op : AluOp)
  | mulDiv (op : MulDivOp)
  | controlFlow (op : CfOp)
  | move (op : MoveOp)
  | system (op : SystemOp)
  | malformed
  deriving DecidableEq, Repr

/-- The class of a recognised but unimplemented encoding (30_encoding.md R148); there is one. -/
inductive UnimplClass where
  | cop1Arith
  deriving DecidableEq, Repr

/-- The decoder's result: an IR operation, or the marker `Unimplemented(class)`, which is no IR
variant (30_encoding.md R145, R148). -/
inductive Decoded where
  | op (o : IrOp)
  | unimplemented (cls : UnimplClass)
  deriving DecidableEq, Repr

end Sys2Proof
end

