-- ==== Sys2Proof/Config.lean ====
section
/-! DEFINITION. What is fixed for the machine: the constants of 00_scope.md R7, the parameters of R8
as a record (`Params`) with their defaults, and the free values, which have no body. -/

namespace Sys2Proof

/-- The order in which a Load assembles its bytes (`LOAD_BYTE_ORDER`, 20_memory.md R104). -/
inductive ByteOrder where
  | big
  | little
  deriving DecidableEq, Repr

/-- `BRANCH_REL_BASE` (44_control_flow.md R372): the branch address plus 8, or its alternative plus 4. -/
inductive BranchBase where
  | afterDelaySlot
  | delaySlot
  deriving DecidableEq, Repr

/-- `BOOT_ENTRY_PC` (70_reset_and_hazards.md R513): the start of the copied window, or its alternative,
offset 0x40 in it. -/
inductive BootEntry where
  | windowStart
  | bootCode
  deriving DecidableEq, Repr

/-- `DIV_ZERO` and `DIV_OVF` (43_alu_shift_muldiv.md R332): the table of R332, or functions nothing is
known about. -/
inductive DivCorner where
  | table
  | free
  deriving DecidableEq, Repr

/-- A width that 00_scope.md R8 leaves open: 32 bits and as many above them as the parameter says, at most
64 in all. The fields of the control registers and a virtual address take the first 32, and no rule reads or
writes a bit above the 64th (log 21). -/
structure RegWidth where
  above : Fin 33
  deriving DecidableEq, Repr

/-- A width in bits. -/
def RegWidth.bits (w : RegWidth) : Nat := 32 + w.above.val

/-- 64 bits, the default of every width (00_scope.md R8; 92_eei_decisions.md D2 to D5). -/
def RegWidth.full : RegWidth := ⟨⟨32, by decide⟩⟩

/-- The parameters of 00_scope.md R8. A state carries them, so that a statement about every state holds
for every choice; no step changes them (log 5). `CART` and `PI` are arguments of `hostReset`. -/
structure Params where
  /-- `LOAD_BYTE_ORDER` (20_memory.md R104) -/
  loadByteOrder : ByteOrder
  /-- `BRANCH_REL_BASE` (44_control_flow.md R372) -/
  branchBase : BranchBase
  /-- `BOOT_ENTRY_PC` (70_reset_and_hazards.md R513) -/
  bootEntry : BootEntry
  /-- `DIV_ZERO` and `DIV_OVF` (43_alu_shift_muldiv.md R332) -/
  divCorner : DivCorner
  /-- `KSEG1_BASE`, the base of the uncached kernel window (20_memory.md R84; log 16) -/
  kseg1Base : BitVec 32
  /-- `RAM_SIZE`, at most the size of the RAM row, physical 0 to 0x03FF_FFFF (10_state.md R59;
  20_memory.md R92, R93; log 16) -/
  ramSize : Fin 0x04000001
  /-- `CART_ROM_BASE`, a physical address (20_memory.md R97, R100) -/
  cartRomBase : BitVec 32
  /-- `PC_WIDTH`, the width of the program counter (10_state.md R34; 92_eei_decisions.md D3; log 21) -/
  pcWidth : RegWidth
  /-- `EA_WIDTH`, the width of an effective address (41_load_store.md R222; 92_eei_decisions.md D2; log 21) -/
  eaWidth : RegWidth
  /-- `FPR_WIDTH`, the width of a floating-point register (10_state.md R51; 92_eei_decisions.md D4; log 21) -/
  fprWidth : RegWidth
  /-- `CP0_SLOT_WIDTH`, the width of a system-control slot (10_state.md R40; 92_eei_decisions.md D5; log 21) -/
  cp0Width : RegWidth
  /-- `BLOCK_SCAN_LIMIT`, in words (40_pipeline.md R197) -/
  blockScanLimit : Nat
  /-- `BOOT_STATUS` (70_reset_and_hazards.md R512) -/
  bootStatus : Word
  /-- `BOOT_CONFIG` (70_reset_and_hazards.md R512) -/
  bootConfig : Word
  /-- `BOOT_SP` (70_reset_and_hazards.md R512) -/
  bootSp : Word
  /-- `PRID_VALUE`; bits 63 to 16 of PRId are 0 (10_state.md R44) -/
  pridValue : BitVec 16
  /-- `FCR0_VALUE`; bits 63 to 32 of `fcr[0]` are 0 (10_state.md R52) -/
  fcr0Value : BitVec 32
  /-- `EXC_VECTOR(0)` (60_exceptions.md R481) -/
  excVector0 : Word
  /-- `EXC_VECTOR(1)` (60_exceptions.md R481) -/
  excVector1 : Word
  /-- `INIT_RAM`, the first bytes of RAM before boot; the bytes after the list are 0 (10_state.md R71;
  log 8) -/
  initRam : List Byte
  /-- `INIT_IMEM`, the first bytes of IMEM before boot; the bytes after the list are 0 (10_state.md R71;
  log 8) -/
  initImem : List Byte
  deriving DecidableEq, Repr

/-- The defaults of 00_scope.md R8. -/
def Params.defaults : Params :=
  { loadByteOrder := .big
    branchBase := .afterDelaySlot
    bootEntry := .windowStart
    divCorner := .table
    kseg1Base := 0xA0000000#32
    ramSize := ⟨0x04000000, by decide⟩
    cartRomBase := 0x10000000#32
    pcWidth := .full
    eaWidth := .full
    fprWidth := .full
    cp0Width := .full
    blockScanLimit := 1024
    bootStatus := 0x34000000#64
    bootConfig := 0x0006E463#64
    bootSp := 0xFFFFFFFFA4001FF0#64
    pridValue := 0x0B22#16
    fcr0Value := 0x0B00#32
    excVector0 := 0xFFFFFFFF80000180#64
    excVector1 := 0xFFFFFFFFBFC00380#64
    initRam := []
    initImem := [] }

/-- `EXC_VECTOR(bev)` (60_exceptions.md R481). -/
def Params.excVector (cfg : Params) (bev : Bool) : Word := if bev then cfg.excVector1 else cfg.excVector0

/-- What PRId holds: `PRID_VALUE` (10_state.md R44). -/
def Params.prid (cfg : Params) : Word := cfg.pridValue.setWidth 64

/-- What `fcr[0]` holds: `FCR0_VALUE` (10_state.md R52). -/
def Params.fcr0 (cfg : Params) : Word := cfg.fcr0Value.setWidth 64

/-- A DMA descriptor: three unsigned 32-bit numbers (10_state.md R68). -/
structure DmaDescriptor where
  source : BitVec 32
  destination : BitVec 32
  length : BitVec 32
  deriving DecidableEq, Repr

namespace Config

/-- The last address of the uncached kernel window (20_memory.md R84). -/
def kseg1Last : Nat := 0xBFFFFFFF

/-- `SPMEM_LO`, the start of the coprocessor-memory row (20_memory.md R92). -/
def spBase : Nat := 0x04000000

/-- `SPMEM_HI`, the last address of the coprocessor-memory row (20_memory.md R92). -/
def spLast : Nat := 0x0403FFFF

/-- `SPMEM_MIRROR`, the distance between two copies of the 8 KiB pair (20_memory.md R94). -/
def spMirror : Nat := 8192

/-- `DMEM_SIZE`; IMEM follows DMEM and has the same size (10_state.md R60). -/
def dmemSize : Nat := 4096

/-- `PI_LO`, the start of the peripheral-interface row (20_memory.md R92). -/
def piBase : Nat := 0x04600000

/-- `PI_HI`, the last address of the peripheral-interface row (20_memory.md R92). -/
def piLast : Nat := 0x046FFFFF

/-- `BOOT_COPY_LEN` (70_reset_and_hazards.md R513). -/
def bootCopyLen : Nat := 4096

/-- `BOOT_ENTRY_PC` as an address (70_reset_and_hazards.md R513). -/
def bootEntryPc : BootEntry → Word
  | .windowStart => 0xFFFFFFFFA4000000#64
  | .bootCode => 0xFFFFFFFFA4000040#64

/-- The constant bits of the Config register, `K[16]` (10_state.md R45). -/
def configConstant : Word := 0x00066460#64

/-- What a byte of RAM, DMEM or IMEM reads as that is not listed: the reset contents of DMEM and the
default of `INIT_RAM` and `INIT_IMEM` (10_state.md R71; log 8). -/
def unlistedByte : Byte := 0#8

/-- `BRANCH_REL_BASE` as a number (44_control_flow.md R372). -/
def branchRelBase : BranchBase → Word
  | .afterDelaySlot => 8#64
  | .delaySlot => 4#64

/-- FREE VALUE: byte `i` of what the peripheral interface answers to a read of `n` bytes at physical
address `pa`, as draw number `draw` (20_memory.md R95; log 4). Nothing is known of it. -/
opaque piReadByte : (draw pa n i : Nat) → Byte

/-- FREE VALUE: what the peripheral interface answers to a write of `bytes` at physical address `pa`,
as draw number `draw` (20_memory.md R95; log 4). Nothing is known of it. -/
opaque piWriteAnswer : (draw pa : Nat) → (bytes : List Byte) → Option DmaDescriptor

/-- FREE VALUE: `DIV_ZERO(kind, a)`, the pair `(HI, LO)` a division by zero leaves when the parameter
`divCorner` is `free` (43_alu_shift_muldiv.md R332; log 6). Nothing is known of it. -/
opaque divZero : (kind : MulDivKind) → (a : Word) → Word × Word

/-- FREE VALUE: `DIV_OVF(kind)`, the pair `(HI, LO)` an overflowing division leaves when the parameter
`divCorner` is `free` (43_alu_shift_muldiv.md R332; log 6). Nothing is known of it. -/
opaque divOvf : (kind : MulDivKind) → Word × Word

end Config

end Sys2Proof
end

