-- ==== Sys2Proof/Decode.lean ====
section
/-! DEFINITION. The decoder (30_encoding.md R130 to R134, R145 to R157), total on any word and any
bytes; the IR operation each instruction stands for (R140 to R150); after it the encoder, written from
the same tables, and the opcode table as data (R159, R164). -/

namespace Sys2Proof

/-! ## Fields of a word (30_encoding.md R131 to R133) -/

/-- `op`, bits 31 to 26. -/
def fOp (w : InstrWord) : BitVec 6 := w.extractLsb' 26 6

/-- Bits 25 to 21 as a selector (`rs` in COP0 and COP1, R133). -/
def fRsBits (w : InstrWord) : BitVec 5 := w.extractLsb' 21 5

/-- Bits 20 to 16 as a selector or code (`rt` in REGIMM and BC, `cop` in CACHE, R133). -/
def fRtBits (w : InstrWord) : BitVec 5 := w.extractLsb' 16 5

/-- `rs` or `base`, bits 25 to 21. -/
def fRs (w : InstrWord) : RegIdx := (w.extractLsb' 21 5).toFin

/-- `rt` or `ft`, bits 20 to 16. -/
def fRt (w : InstrWord) : RegIdx := (w.extractLsb' 16 5).toFin

/-- `rd` or `fs`, bits 15 to 11. -/
def fRd (w : InstrWord) : RegIdx := (w.extractLsb' 11 5).toFin

/-- `sa`, bits 10 to 6. -/
def fSa (w : InstrWord) : BitVec 5 := w.extractLsb' 6 5

/-- `funct`, bits 5 to 0. -/
def fFunct (w : InstrWord) : BitVec 6 := w.extractLsb' 0 6

/-- `imm` or `offset`, bits 15 to 0. -/
def fImm (w : InstrWord) : BitVec 16 := w.extractLsb' 0 16

/-- `index`, bits 25 to 0. -/
def fIndex (w : InstrWord) : BitVec 26 := w.extractLsb' 0 26

/-- `code` of SYSCALL and BREAK, bits 25 to 6. -/
def fCode (w : InstrWord) : BitVec 20 := w.extractLsb' 6 20

/-! ## The opcode maps: `none` where the word is reserved (`Malformed`) -/

/-- SPECIAL, selected by `funct` (30_encoding.md R152). -/
def decodeSpecial (w : InstrWord) : Option Instr :=
  match fFunct w with
  | 0x00#6 => some (.sll (fRt w) (fRd w) (fSa w))
  | 0x02#6 => some (.srl (fRt w) (fRd w) (fSa w))
  | 0x03#6 => some (.sra (fRt w) (fRd w) (fSa w))
  | 0x04#6 => some (.sllv (fRs w) (fRt w) (fRd w))
  | 0x06#6 => some (.srlv (fRs w) (fRt w) (fRd w))
  | 0x07#6 => some (.srav (fRs w) (fRt w) (fRd w))
  | 0x08#6 => some (.jr (fRs w))
  | 0x09#6 => some (.jalr (fRs w) (fRd w))
  | 0x0C#6 => some (.syscall (fCode w))
  | 0x0D#6 => some (.brk (fCode w))
  | 0x0F#6 => some .sync
  | 0x10#6 => some (.mfhi (fRd w))
  | 0x11#6 => some (.mthi (fRs w))
  | 0x12#6 => some (.mflo (fRd w))
  | 0x13#6 => some (.mtlo (fRs w))
  | 0x14#6 => some (.dsllv (fRs w) (fRt w) (fRd w))
  | 0x16#6 => some (.dsrlv (fRs w) (fRt w) (fRd w))
  | 0x17#6 => some (.dsrav (fRs w) (fRt w) (fRd w))
  | 0x18#6 => some (.mult (fRs w) (fRt w))
  | 0x19#6 => some (.multu (fRs w) (fRt w))
  | 0x1A#6 => some (.div (fRs w) (fRt w))
  | 0x1B#6 => some (.divu (fRs w) (fRt w))
  | 0x1C#6 => some (.dmult (fRs w) (fRt w))
  | 0x1D#6 => some (.dmultu (fRs w) (fRt w))
  | 0x1E#6 => some (.ddiv (fRs w) (fRt w))
  | 0x1F#6 => some (.ddivu (fRs w) (fRt w))
  | 0x20#6 => some (.add (fRs w) (fRt w) (fRd w))
  | 0x21#6 => some (.addu (fRs w) (fRt w) (fRd w))
  | 0x22#6 => some (.sub (fRs w) (fRt w) (fRd w))
  | 0x23#6 => some (.subu (fRs w) (fRt w) (fRd w))
  | 0x24#6 => some (.and (fRs w) (fRt w) (fRd w))
  | 0x25#6 => some (.or (fRs w) (fRt w) (fRd w))
  | 0x26#6 => some (.xor (fRs w) (fRt w) (fRd w))
  | 0x27#6 => some (.nor (fRs w) (fRt w) (fRd w))
  | 0x2A#6 => some (.slt (fRs w) (fRt w) (fRd w))
  | 0x2B#6 => some (.sltu (fRs w) (fRt w) (fRd w))
  | 0x2C#6 => some (.dadd (fRs w) (fRt w) (fRd w))
  | 0x2D#6 => some (.daddu (fRs w) (fRt w) (fRd w))
  | 0x2E#6 => some (.dsub (fRs w) (fRt w) (fRd w))
  | 0x2F#6 => some (.dsubu (fRs w) (fRt w) (fRd w))
  | 0x30#6 => some (.tge (fRs w) (fRt w))
  | 0x31#6 => some (.tgeu (fRs w) (fRt w))
  | 0x32#6 => some (.tlt (fRs w) (fRt w))
  | 0x33#6 => some (.tltu (fRs w) (fRt w))
  | 0x34#6 => some (.teq (fRs w) (fRt w))
  | 0x36#6 => some (.tne (fRs w) (fRt w))
  | 0x38#6 => some (.dsll (fRt w) (fRd w) (fSa w))
  | 0x3A#6 => some (.dsrl (fRt w) (fRd w) (fSa w))
  | 0x3B#6 => some (.dsra (fRt w) (fRd w) (fSa w))
  | 0x3C#6 => some (.dsll32 (fRt w) (fRd w) (fSa w))
  | 0x3E#6 => some (.dsrl32 (fRt w) (fRd w) (fSa w))
  | 0x3F#6 => some (.dsra32 (fRt w) (fRd w) (fSa w))
  | _ => none

/-- REGIMM, selected by the `rt` field (30_encoding.md R153). -/
def decodeRegimm (w : InstrWord) : Option Instr :=
  match fRtBits w with
  | 0x00#5 => some (.bltz (fRs w) (fImm w))
  | 0x01#5 => some (.bgez (fRs w) (fImm w))
  | 0x02#5 => some (.bltzl (fRs w) (fImm w))
  | 0x03#5 => some (.bgezl (fRs w) (fImm w))
  | 0x08#5 => some (.tgei (fRs w) (fImm w))
  | 0x09#5 => some (.tgeiu (fRs w) (fImm w))
  | 0x0A#5 => some (.tlti (fRs w) (fImm w))
  | 0x0B#5 => some (.tltiu (fRs w) (fImm w))
  | 0x0C#5 => some (.teqi (fRs w) (fImm w))
  | 0x0E#5 => some (.tnei (fRs w) (fImm w))
  | 0x10#5 => some (.bltzal (fRs w) (fImm w))
  | 0x11#5 => some (.bgezal (fRs w) (fImm w))
  | 0x12#5 => some (.bltzall (fRs w) (fImm w))
  | 0x13#5 => some (.bgezall (fRs w) (fImm w))
  | _ => none

/-- COP0 with bit 25 set (CO), selected by `funct` (30_encoding.md R154). -/
def decodeCop0Co (w : InstrWord) : Option Instr :=
  match fFunct w with
  | 0x01#6 => some .tlbr
  | 0x02#6 => some .tlbwi
  | 0x06#6 => some .tlbwr
  | 0x08#6 => some .tlbp
  | 0x18#6 => some .eret
  | _ => none

/-- COP0, selected by the `rs` field (30_encoding.md R154). -/
def decodeCop0 (w : InstrWord) : Option Instr :=
  if w.getLsbD 25 then decodeCop0Co w
  else match fRsBits w with
    | 0x00#5 => some (.mfc0 (fRt w) (fRd w))
    | 0x01#5 => some (.dmfc0 (fRt w) (fRd w))
    | 0x04#5 => some (.mtc0 (fRt w) (fRd w))
    | 0x05#5 => some (.dmtc0 (fRt w) (fRd w))
    | _ => none

/-- COP1 with `rs` = 08 (BC), selected by the `rt` field (30_encoding.md R155). -/
def decodeBc1 (w : InstrWord) : Option Instr :=
  match fRtBits w with
  | 0x00#5 => some (.bc1f (fImm w))
  | 0x01#5 => some (.bc1t (fImm w))
  | 0x02#5 => some (.bc1fl (fImm w))
  | 0x03#5 => some (.bc1tl (fImm w))
  | _ => none

/-- COP1, selected by the `rs` field (30_encoding.md R155). -/
def decodeCop1 (w : InstrWord) : Option Instr :=
  match fRsBits w with
  | 0x00#5 => some (.mfc1 (fRt w) (fRd w))
  | 0x01#5 => some (.dmfc1 (fRt w) (fRd w))
  | 0x02#5 => some (.cfc1 (fRt w) (fRd w))
  | 0x04#5 => some (.mtc1 (fRt w) (fRd w))
  | 0x05#5 => some (.dmtc1 (fRt w) (fRd w))
  | 0x06#5 => some (.ctc1 (fRt w) (fRd w))
  | 0x08#5 => decodeBc1 w
  | 0x10#5 => some .cop1S
  | 0x11#5 => some .cop1D
  | 0x14#5 => some .cop1W
  | 0x15#5 => some .cop1L
  | _ => none

/-- The instruction a word is, by its primary opcode (30_encoding.md R134, R151); `none` for a reserved
word, which is `Malformed` (R157). -/
def decodeWord (w : InstrWord) : Option Instr :=
  match fOp w with
  | 0x00#6 => decodeSpecial w
  | 0x01#6 => decodeRegimm w
  | 0x02#6 => some (.j (fIndex w))
  | 0x03#6 => some (.jal (fIndex w))
  | 0x04#6 => some (.beq (fRs w) (fRt w) (fImm w))
  | 0x05#6 => some (.bne (fRs w) (fRt w) (fImm w))
  | 0x06#6 => some (.blez (fRs w) (fImm w))
  | 0x07#6 => some (.bgtz (fRs w) (fImm w))
  | 0x08#6 => some (.addi (fRs w) (fRt w) (fImm w))
  | 0x09#6 => some (.addiu (fRs w) (fRt w) (fImm w))
  | 0x0A#6 => some (.slti (fRs w) (fRt w) (fImm w))
  | 0x0B#6 => some (.sltiu (fRs w) (fRt w) (fImm w))
  | 0x0C#6 => some (.andi (fRs w) (fRt w) (fImm w))
  | 0x0D#6 => some (.ori (fRs w) (fRt w) (fImm w))
  | 0x0E#6 => some (.xori (fRs w) (fRt w) (fImm w))
  | 0x0F#6 => some (.lui (fRt w) (fImm w))
  | 0x10#6 => decodeCop0 w
  | 0x11#6 => decodeCop1 w
  | 0x14#6 => some (.beql (fRs w) (fRt w) (fImm w))
  | 0x15#6 => some (.bnel (fRs w) (fRt w) (fImm w))
  | 0x16#6 => some (.blezl (fRs w) (fImm w))
  | 0x17#6 => some (.bgtzl (fRs w) (fImm w))
  | 0x18#6 => some (.daddi (fRs w) (fRt w) (fImm w))
  | 0x19#6 => some (.daddiu (fRs w) (fRt w) (fImm w))
  | 0x1A#6 => some (.ldl (fRs w) (fRt w) (fImm w))
  | 0x1B#6 => some (.ldr (fRs w) (fRt w) (fImm w))
  | 0x20#6 => some (.lb (fRs w) (fRt w) (fImm w))
  | 0x21#6 => some (.lh (fRs w) (fRt w) (fImm w))
  | 0x22#6 => some (.lwl (fRs w) (fRt w) (fImm w))
  | 0x23#6 => some (.lw (fRs w) (fRt w) (fImm w))
  | 0x24#6 => some (.lbu (fRs w) (fRt w) (fImm w))
  | 0x25#6 => some (.lhu (fRs w) (fRt w) (fImm w))
  | 0x26#6 => some (.lwr (fRs w) (fRt w) (fImm w))
  | 0x27#6 => some (.lwu (fRs w) (fRt w) (fImm w))
  | 0x28#6 => some (.sb (fRs w) (fRt w) (fImm w))
  | 0x29#6 => some (.sh (fRs w) (fRt w) (fImm w))
  | 0x2A#6 => some (.swl (fRs w) (fRt w) (fImm w))
  | 0x2B#6 => some (.sw (fRs w) (fRt w) (fImm w))
  | 0x2C#6 => some (.sdl (fRs w) (fRt w) (fImm w))
  | 0x2D#6 => some (.sdr (fRs w) (fRt w) (fImm w))
  | 0x2E#6 => some (.swr (fRs w) (fRt w) (fImm w))
  | 0x2F#6 => some (.cache (fRs w) (fRtBits w) (fImm w))
  | 0x30#6 => some (.ll (fRs w) (fRt w) (fImm w))
  | 0x31#6 => some (.lwc1 (fRs w) (fRt w) (fImm w))
  | 0x34#6 => some (.lld (fRs w) (fRt w) (fImm w))
  | 0x35#6 => some (.ldc1 (fRs w) (fRt w) (fImm w))
  | 0x37#6 => some (.ld (fRs w) (fRt w) (fImm w))
  | 0x38#6 => some (.sc (fRs w) (fRt w) (fImm w))
  | 0x39#6 => some (.swc1 (fRs w) (fRt w) (fImm w))
  | 0x3C#6 => some (.scd (fRs w) (fRt w) (fImm w))
  | 0x3D#6 => some (.sdc1 (fRs w) (fRt w) (fImm w))
  | 0x3F#6 => some (.sd (fRs w) (fRt w) (fImm w))
  | _ => none

/-! ## Bytes -/

/-- The word of four bytes, the byte at the lowest address in bits 31 to 24 (20_memory.md R103). -/
def wordOfBytes (b0 b1 b2 b3 : Byte) : InstrWord := b0 ++ b1 ++ b2 ++ b3

/-- The bytes of a word, that of bits 31 to 24 at the lowest address (20_memory.md R103). -/
def bytesOfWord (w : InstrWord) : List Byte :=
  [w.extractLsb' 24 8, w.extractLsb' 16 8, w.extractLsb' 8 8, w.extractLsb' 0 8]

/-- What decoding a list of bytes yields: an instruction or a reserved word, with the bytes after it,
or fewer than the four bytes of a word. -/
inductive BytesDecoded where
  | instr (i : Instr) (rest : List Byte)
  | malformed (w : InstrWord) (rest : List Byte)
  | truncated (bytes : List Byte)
  deriving DecidableEq, Repr

/-- The decoder on any bytes; it rejects by name and never fails. -/
def decodeBytes : List Byte → BytesDecoded
  | b0 :: b1 :: b2 :: b3 :: rest =>
    match decodeWord (wordOfBytes b0 b1 b2 b3) with
    | some i => .instr i rest
    | none => .malformed (wordOfBytes b0 b1 b2 b3) rest
  | bytes => .truncated bytes

/-- The instruction the decoder reads from an instruction whose bits are `w`, as the opcode table
numbers them; every bit above the row's `nbits` is 0. -/
def decodeTableWord (nbits w : Nat) : Option Instr :=
  match decodeBytes (bytesOfWord (BitVec.ofNat 32 (w % 2 ^ nbits))) with
  | .instr i _ => some i
  | .malformed _ _ => none
  | .truncated _ => none

/-! ## Operand assembly (30_encoding.md R150) -/

/-- `sext_16(imm)` as a 64-bit value. -/
def sextImm (imm : BitVec 16) : Word := imm.signExtend 64

/-- `zext_16(imm)` as a 64-bit value. -/
def zextImm (imm : BitVec 16) : Word := imm.setWidth 64

/-- The branch displacement `sext_16(imm) << 2`. -/
def branchOffset (imm : BitVec 16) : Word := sextImm imm <<< 2

/-- The 32-bit value `imm << 16` of LUI. -/
def upperImm (imm : BitVec 16) : BitVec 32 := imm ++ 0#16

/-- A shift amount 0 to 31. -/
def shiftLow (sa : BitVec 5) : BitVec 6 := sa.setWidth 6

/-- The shift amount `sa + 32` of the doubleword "32" shifts. -/
def shiftHigh (sa : BitVec 5) : BitVec 6 := sa.setWidth 6 + 32#6

/-! ## The IR operation of an instruction -/

/-- A based Load that is aligned and not conditional. -/
def loadOp (bits : Bits) (ext : Ext) (dest : DataReg) (base : RegIdx) (offset : BitVec 16) : LoadOp :=
  { width := ⟨bits, ext⟩, dest := dest, source := .based base (sextImm offset),
    conditional := false, aligned := true }

/-- A based Load of an unaligned form (30_encoding.md R143). -/
def unalignedLoadOp (bits : Bits) (rt base : RegIdx) (offset : BitVec 16) : LoadOp :=
  { loadOp bits .s (.g rt) base offset with aligned := false }

/-- A load-linked form (30_encoding.md R143). -/
def linkedLoadOp (bits : Bits) (rt base : RegIdx) (offset : BitVec 16) : LoadOp :=
  { loadOp bits .s (.g rt) base offset with conditional := true }

/-- The Load of LUI (41_load_store.md R231). -/
def luiOp (rt : RegIdx) (imm : BitVec 16) : LoadOp :=
  { width := ⟨.b32, .s⟩, dest := .g rt, source := .immediate (upperImm imm),
    conditional := false, aligned := true }

/-- A Store that is aligned and not conditional. -/
def storeOp (bits : Bits) (source : DataReg) (base : RegIdx) (offset : BitVec 16) : StoreOp :=
  { width := ⟨bits, .s⟩, source := source, base := base, offset := sextImm offset,
    conditional := false, aligned := true }

/-- A Store of an unaligned form (30_encoding.md R143). -/
def unalignedStoreOp (bits : Bits) (rt base : RegIdx) (offset : BitVec 16) : StoreOp :=
  { storeOp bits (.g rt) base offset with aligned := false }

/-- A store-conditional form (30_encoding.md R143). -/
def conditionalStoreOp (bits : Bits) (rt base : RegIdx) (offset : BitVec 16) : StoreOp :=
  { storeOp bits (.g rt) base offset with conditional := true }

/-- An ALU operation on a register and an immediate. -/
def aluImmOp (kind : AluKind) (rt rs : RegIdx) (v : Word) : AluOp :=
  { kind := kind, dest := .g rt, src1 := some (.reg rs), src2 := .imm v }

/-- An ALU operation on two registers. -/
def aluRegOp (kind : AluKind) (rd a b : RegIdx) : AluOp :=
  { kind := kind, dest := .g rd, src1 := some (.reg a), src2 := .reg b }

/-- A shift by a constant amount. -/
def shiftOp (kind : AluKind) (rd rt : RegIdx) (amount : BitVec 6) : AluOp :=
  { kind := kind, dest := .g rd, src1 := some (.reg rt), src2 := .sa amount }

/-- A HI/LO transfer: `Copy` with `src1 = None`. -/
def copyOp (dest : AluDest) (src : Opnd) : AluOp :=
  { kind := .copy, dest := dest, src1 := none, src2 := src }

/-- A multiply or divide of two registers. -/
def mulDivOp (kind : MulDivKind) (rs rt : RegIdx) : MulDivOp :=
  { kind := kind, src1 := .reg rs, src2 := .reg rt }

/-- A relative branch. -/
def branchOp (condition : Cond) (imm : BitVec 16) (likely : Bool) (link : Option RegIdx) : CfOp :=
  { condition := condition, destination := .rel (branchOffset imm), likely := likely, link := link }

/-- An unconditional jump. -/
def jumpOp (destination : Target) (link : Option RegIdx) : CfOp :=
  { condition := .always, destination := destination, likely := false, link := link }

/-- The decoder's result for the words of an instruction: the line "IR" of its rule in files 41 to 46. -/
def Instr.ir : Instr → Decoded
  | .lb base rt offset => .op (.load (loadOp .b8 .s (.g rt) base offset))
  | .lbu base rt offset => .op (.load (loadOp .b8 .z (.g rt) base offset))
  | .lh base rt offset => .op (.load (loadOp .b16 .s (.g rt) base offset))
  | .lhu base rt offset => .op (.load (loadOp .b16 .z (.g rt) base offset))
  | .lw base rt offset => .op (.load (loadOp .b32 .s (.g rt) base offset))
  | .lwu base rt offset => .op (.load (loadOp .b32 .z (.g rt) base offset))
  | .ld base rt offset => .op (.load (loadOp .b64 .s (.g rt) base offset))
  | .lwl base rt offset => .op (.load (unalignedLoadOp .b32 rt base offset))
  | .lwr base rt offset => .op (.load (unalignedLoadOp .b32 rt base offset))
  | .ldl base rt offset => .op (.load (unalignedLoadOp .b64 rt base offset))
  | .ldr base rt offset => .op (.load (unalignedLoadOp .b64 rt base offset))
  | .ll base rt offset => .op (.load (linkedLoadOp .b32 rt base offset))
  | .lld base rt offset => .op (.load (linkedLoadOp .b64 rt base offset))
  | .lwc1 base ft offset => .op (.load (loadOp .b32 .z (.f ft) base offset))
  | .ldc1 base ft offset => .op (.load (loadOp .b64 .s (.f ft) base offset))
  | .lui rt imm => .op (.load (luiOp rt imm))
  | .sb base rt offset => .op (.store (storeOp .b8 (.g rt) base offset))
  | .sh base rt offset => .op (.store (storeOp .b16 (.g rt) base offset))
  | .sw base rt offset => .op (.store (storeOp .b32 (.g rt) base offset))
  | .sd base rt offset => .op (.store (storeOp .b64 (.g rt) base offset))
  | .swl base rt offset => .op (.store (unalignedStoreOp .b32 rt base offset))
  | .swr base rt offset => .op (.store (unalignedStoreOp .b32 rt base offset))
  | .sdl base rt offset => .op (.store (unalignedStoreOp .b64 rt base offset))
  | .sdr base rt offset => .op (.store (unalignedStoreOp .b64 rt base offset))
  | .sc base rt offset => .op (.store (conditionalStoreOp .b32 rt base offset))
  | .scd base rt offset => .op (.store (conditionalStoreOp .b64 rt base offset))
  | .swc1 base ft offset => .op (.store (storeOp .b32 (.f ft) base offset))
  | .sdc1 base ft offset => .op (.store (storeOp .b64 (.f ft) base offset))
  | .addi rs rt imm => .op (.alu (aluImmOp .add32T rt rs (sextImm imm)))
  | .addiu rs rt imm => .op (.alu (aluImmOp .add32 rt rs (sextImm imm)))
  | .slti rs rt imm => .op (.alu (aluImmOp .slt rt rs (sextImm imm)))
  | .sltiu rs rt imm => .op (.alu (aluImmOp .sltu rt rs (sextImm imm)))
  | .andi rs rt imm => .op (.alu (aluImmOp .and rt rs (zextImm imm)))
  | .ori rs rt imm => .op (.alu (aluImmOp .or rt rs (zextImm imm)))
  | .xori rs rt imm => .op (.alu (aluImmOp .xor rt rs (zextImm imm)))
  | .daddi rs rt imm => .op (.alu (aluImmOp .add64T rt rs (sextImm imm)))
  | .daddiu rs rt imm => .op (.alu (aluImmOp .add64 rt rs (sextImm imm)))
  | .beq rs rt imm => .op (.controlFlow (branchOp (.eq rs rt) imm false none))
  | .bne rs rt imm => .op (.controlFlow (branchOp (.ne rs rt) imm false none))
  | .beql rs rt imm => .op (.controlFlow (branchOp (.eq rs rt) imm true none))
  | .bnel rs rt imm => .op (.controlFlow (branchOp (.ne rs rt) imm true none))
  | .blez rs imm => .op (.controlFlow (branchOp (.lez rs) imm false none))
  | .bgtz rs imm => .op (.controlFlow (branchOp (.gtz rs) imm false none))
  | .blezl rs imm => .op (.controlFlow (branchOp (.lez rs) imm true none))
  | .bgtzl rs imm => .op (.controlFlow (branchOp (.gtz rs) imm true none))
  | .cache base cop offset => .op (.system (.cache cop base (sextImm offset)))
  | .j index => .op (.controlFlow (jumpOp (.abs index) none))
  | .jal index => .op (.controlFlow (jumpOp (.abs index) (some 31)))
  | .sll rt rd sa => .op (.alu (shiftOp .sll32 rd rt (shiftLow sa)))
  | .srl rt rd sa => .op (.alu (shiftOp .srl32 rd rt (shiftLow sa)))
  | .sra rt rd sa => .op (.alu (shiftOp .sra32 rd rt (shiftLow sa)))
  | .dsll rt rd sa => .op (.alu (shiftOp .sll64 rd rt (shiftLow sa)))
  | .dsrl rt rd sa => .op (.alu (shiftOp .srl64 rd rt (shiftLow sa)))
  | .dsra rt rd sa => .op (.alu (shiftOp .sra64 rd rt (shiftLow sa)))
  | .dsll32 rt rd sa => .op (.alu (shiftOp .sll64 rd rt (shiftHigh sa)))
  | .dsrl32 rt rd sa => .op (.alu (shiftOp .srl64 rd rt (shiftHigh sa)))
  | .dsra32 rt rd sa => .op (.alu (shiftOp .sra64 rd rt (shiftHigh sa)))
  | .sllv rs rt rd => .op (.alu (aluRegOp .sll32 rd rt rs))
  | .srlv rs rt rd => .op (.alu (aluRegOp .srl32 rd rt rs))
  | .srav rs rt rd => .op (.alu (aluRegOp .sra32 rd rt rs))
  | .dsllv rs rt rd => .op (.alu (aluRegOp .sll64 rd rt rs))
  | .dsrlv rs rt rd => .op (.alu (aluRegOp .srl64 rd rt rs))
  | .dsrav rs rt rd => .op (.alu (aluRegOp .sra64 rd rt rs))
  | .add rs rt rd => .op (.alu (aluRegOp .add32T rd rs rt))
  | .addu rs rt rd => .op (.alu (aluRegOp .add32 rd rs rt))
  | .sub rs rt rd => .op (.alu (aluRegOp .sub32T rd rs rt))
  | .subu rs rt rd => .op (.alu (aluRegOp .sub32 rd rs rt))
  | .and rs rt rd => .op (.alu (aluRegOp .and rd rs rt))
  | .or rs rt rd => .op (.alu (aluRegOp .or rd rs rt))
  | .xor rs rt rd => .op (.alu (aluRegOp .xor rd rs rt))
  | .nor rs rt rd => .op (.alu (aluRegOp .nor rd rs rt))
  | .slt rs rt rd => .op (.alu (aluRegOp .slt rd rs rt))
  | .sltu rs rt rd => .op (.alu (aluRegOp .sltu rd rs rt))
  | .dadd rs rt rd => .op (.alu (aluRegOp .add64T rd rs rt))
  | .daddu rs rt rd => .op (.alu (aluRegOp .add64 rd rs rt))
  | .dsub rs rt rd => .op (.alu (aluRegOp .sub64T rd rs rt))
  | .dsubu rs rt rd => .op (.alu (aluRegOp .sub64 rd rs rt))
  | .mult rs rt => .op (.mulDiv (mulDivOp .mult32 rs rt))
  | .multu rs rt => .op (.mulDiv (mulDivOp .multu32 rs rt))
  | .div rs rt => .op (.mulDiv (mulDivOp .div32 rs rt))
  | .divu rs rt => .op (.mulDiv (mulDivOp .divu32 rs rt))
  | .dmult rs rt => .op (.mulDiv (mulDivOp .mult64 rs rt))
  | .dmultu rs rt => .op (.mulDiv (mulDivOp .multu64 rs rt))
  | .ddiv rs rt => .op (.mulDiv (mulDivOp .div64 rs rt))
  | .ddivu rs rt => .op (.mulDiv (mulDivOp .divu64 rs rt))
  | .mfhi rd => .op (.alu (copyOp (.g rd) .hi))
  | .mflo rd => .op (.alu (copyOp (.g rd) .lo))
  | .mthi rs => .op (.alu (copyOp .hi (.reg rs)))
  | .mtlo rs => .op (.alu (copyOp .lo (.reg rs)))
  | .jr rs => .op (.controlFlow (jumpOp (.inReg rs) none))
  | .jalr rs rd => .op (.controlFlow (jumpOp (.inReg rs) (some rd)))
  | .syscall code => .op (.system (.syscall code))
  | .brk code => .op (.system (.brk code))
  | .sync => .op (.system .sync)
  | .tge rs rt => .op (.system (.trap .ge rs (.reg rt)))
  | .tgeu rs rt => .op (.system (.trap .geu rs (.reg rt)))
  | .tlt rs rt => .op (.system (.trap .lt rs (.reg rt)))
  | .tltu rs rt => .op (.system (.trap .ltu rs (.reg rt)))
  | .teq rs rt => .op (.system (.trap .eq rs (.reg rt)))
  | .tne rs rt => .op (.system (.trap .ne rs (.reg rt)))
  | .bltz rs imm => .op (.controlFlow (branchOp (.ltz rs) imm false none))
  | .bgez rs imm => .op (.controlFlow (branchOp (.gez rs) imm false none))
  | .bltzl rs imm => .op (.controlFlow (branchOp (.ltz rs) imm true none))
  | .bgezl rs imm => .op (.controlFlow (branchOp (.gez rs) imm true none))
  | .bltzal rs imm => .op (.controlFlow (branchOp (.ltz rs) imm false (some 31)))
  | .bgezal rs imm => .op (.controlFlow (branchOp (.gez rs) imm false (some 31)))
  | .bltzall rs imm => .op (.controlFlow (branchOp (.ltz rs) imm true (some 31)))
  | .bgezall rs imm => .op (.controlFlow (branchOp (.gez rs) imm true (some 31)))
  | .tgei rs imm => .op (.system (.trap .ge rs (.imm (sextImm imm))))
  | .tgeiu rs imm => .op (.system (.trap .geu rs (.imm (sextImm imm))))
  | .tlti rs imm => .op (.system (.trap .lt rs (.imm (sextImm imm))))
  | .tltiu rs imm => .op (.system (.trap .ltu rs (.imm (sextImm imm))))
  | .teqi rs imm => .op (.system (.trap .eq rs (.imm (sextImm imm))))
  | .tnei rs imm => .op (.system (.trap .ne rs (.imm (sextImm imm))))
  | .mfc0 rt rd => .op (.move (.fromCop (.c0 rd) rt))
  | .dmfc0 rt rd => .op (.move (.fromCop (.c0 rd) rt))
  | .mtc0 rt rd => .op (.move (.toCop rt (.c0 rd)))
  | .dmtc0 rt rd => .op (.move (.toCop rt (.c0 rd)))
  | .tlbr => .op (.system .tlbr)
  | .tlbwi => .op (.system .tlbwi)
  | .tlbwr => .op (.system .tlbwr)
  | .tlbp => .op (.system .tlbp)
  | .eret => .op (.system .eret)
  | .mfc1 rt fs => .op (.move (.fromCop (.f fs) rt))
  | .dmfc1 rt fs => .op (.move (.fromCop (.f fs) rt))
  | .cfc1 rt fs => .op (.move (.fromCop (.fc fs) rt))
  | .mtc1 rt fs => .op (.move (.toCop rt (.f fs)))
  | .dmtc1 rt fs => .op (.move (.toCop rt (.f fs)))
  | .ctc1 rt fs => .op (.move (.toCop rt (.fc fs)))
  | .bc1f imm => .op (.controlFlow (branchOp .copFalse imm false none))
  | .bc1t imm => .op (.controlFlow (branchOp .copTrue imm false none))
  | .bc1fl imm => .op (.controlFlow (branchOp .copFalse imm true none))
  | .bc1tl imm => .op (.controlFlow (branchOp .copTrue imm true none))
  | .cop1S => .unimplemented .cop1Arith
  | .cop1D => .unimplemented .cop1Arith
  | .cop1W => .unimplemented .cop1Arith
  | .cop1L => .unimplemented .cop1Arith

/-- `Decode(w)`, the decoder of 30_encoding.md R134 and R145: a total, pure function of the word. -/
def decodeIr (w : InstrWord) : Decoded :=
  match decodeWord w with
  | some i => i.ir
  | none => .op .malformed

/-- The IR operation is a `ControlFlow`. -/
def Decoded.isControlFlow : Decoded → Bool
  | .op (.controlFlow _) => true
  | .op _ => false
  | .unimplemented _ => false

/-! ## The encoder -/

/-- An immediate-form word (30_encoding.md R131). -/
def iForm (op : BitVec 6) (rs rt : RegIdx) (imm : BitVec 16) : InstrWord :=
  op ++ BitVec.ofFin (w := 5) rs ++ BitVec.ofFin (w := 5) rt ++ imm

/-- An immediate-form word whose `rt` field is a selector or a code. -/
def iSelForm (op : BitVec 6) (rs : RegIdx) (sel : BitVec 5) (imm : BitVec 16) : InstrWord :=
  op ++ BitVec.ofFin (w := 5) rs ++ sel ++ imm

/-- A register-form word with `op` = 0 (30_encoding.md R131). -/
def rForm (rs rt rd : RegIdx) (sa : BitVec 5) (funct : BitVec 6) : InstrWord :=
  0#6 ++ BitVec.ofFin (w := 5) rs ++ BitVec.ofFin (w := 5) rt ++ BitVec.ofFin (w := 5) rd ++ sa ++ funct

/-- A jump-form word (30_encoding.md R132). -/
def jForm (op : BitVec 6) (index : BitVec 26) : InstrWord := op ++ index

/-- A SYSCALL or BREAK word (30_encoding.md R133). -/
def codeForm (code : BitVec 20) (funct : BitVec 6) : InstrWord := 0#6 ++ code ++ funct

/-- A coprocessor transfer: selector in `rs`, then `rt` and `rd` or `fs` (30_encoding.md R133). -/
def copForm (op : BitVec 6) (sel : BitVec 5) (rt rd : RegIdx) : InstrWord :=
  op ++ sel ++ BitVec.ofFin (w := 5) rt ++ BitVec.ofFin (w := 5) rd ++ 0#11

/-- A COP0 word with bit 25 set (30_encoding.md R154). -/
def coForm (funct : BitVec 6) : InstrWord := 0x10#6 ++ 0x10#5 ++ 0#15 ++ funct

/-- The word of an instruction, with 0 in every field the instruction does not use. -/
def encode : Instr → InstrWord
  | .lb base rt offset => iForm 0x20#6 base rt offset
  | .lbu base rt offset => iForm 0x24#6 base rt offset
  | .lh base rt offset => iForm 0x21#6 base rt offset
  | .lhu base rt offset => iForm 0x25#6 base rt offset
  | .lw base rt offset => iForm 0x23#6 base rt offset
  | .lwu base rt offset => iForm 0x27#6 base rt offset
  | .ld base rt offset => iForm 0x37#6 base rt offset
  | .lwl base rt offset => iForm 0x22#6 base rt offset
  | .lwr base rt offset => iForm 0x26#6 base rt offset
  | .ldl base rt offset => iForm 0x1A#6 base rt offset
  | .ldr base rt offset => iForm 0x1B#6 base rt offset
  | .ll base rt offset => iForm 0x30#6 base rt offset
  | .lld base rt offset => iForm 0x34#6 base rt offset
  | .lwc1 base ft offset => iForm 0x31#6 base ft offset
  | .ldc1 base ft offset => iForm 0x35#6 base ft offset
  | .lui rt imm => iForm 0x0F#6 0 rt imm
  | .sb base rt offset => iForm 0x28#6 base rt offset
  | .sh base rt offset => iForm 0x29#6 base rt offset
  | .sw base rt offset => iForm 0x2B#6 base rt offset
  | .sd base rt offset => iForm 0x3F#6 base rt offset
  | .swl base rt offset => iForm 0x2A#6 base rt offset
  | .swr base rt offset => iForm 0x2E#6 base rt offset
  | .sdl base rt offset => iForm 0x2C#6 base rt offset
  | .sdr base rt offset => iForm 0x2D#6 base rt offset
  | .sc base rt offset => iForm 0x38#6 base rt offset
  | .scd base rt offset => iForm 0x3C#6 base rt offset
  | .swc1 base ft offset => iForm 0x39#6 base ft offset
  | .sdc1 base ft offset => iForm 0x3D#6 base ft offset
  | .addi rs rt imm => iForm 0x08#6 rs rt imm
  | .addiu rs rt imm => iForm 0x09#6 rs rt imm
  | .slti rs rt imm => iForm 0x0A#6 rs rt imm
  | .sltiu rs rt imm => iForm 0x0B#6 rs rt imm
  | .andi rs rt imm => iForm 0x0C#6 rs rt imm
  | .ori rs rt imm => iForm 0x0D#6 rs rt imm
  | .xori rs rt imm => iForm 0x0E#6 rs rt imm
  | .daddi rs rt imm => iForm 0x18#6 rs rt imm
  | .daddiu rs rt imm => iForm 0x19#6 rs rt imm
  | .beq rs rt imm => iForm 0x04#6 rs rt imm
  | .bne rs rt imm => iForm 0x05#6 rs rt imm
  | .beql rs rt imm => iForm 0x14#6 rs rt imm
  | .bnel rs rt imm => iForm 0x15#6 rs rt imm
  | .blez rs imm => iForm 0x06#6 rs 0 imm
  | .bgtz rs imm => iForm 0x07#6 rs 0 imm
  | .blezl rs imm => iForm 0x16#6 rs 0 imm
  | .bgtzl rs imm => iForm 0x17#6 rs 0 imm
  | .cache base cop offset => iSelForm 0x2F#6 base cop offset
  | .j index => jForm 0x02#6 index
  | .jal index => jForm 0x03#6 index
  | .sll rt rd sa => rForm 0 rt rd sa 0x00#6
  | .srl rt rd sa => rForm 0 rt rd sa 0x02#6
  | .sra rt rd sa => rForm 0 rt rd sa 0x03#6
  | .dsll rt rd sa => rForm 0 rt rd sa 0x38#6
  | .dsrl rt rd sa => rForm 0 rt rd sa 0x3A#6
  | .dsra rt rd sa => rForm 0 rt rd sa 0x3B#6
  | .dsll32 rt rd sa => rForm 0 rt rd sa 0x3C#6
  | .dsrl32 rt rd sa => rForm 0 rt rd sa 0x3E#6
  | .dsra32 rt rd sa => rForm 0 rt rd sa 0x3F#6
  | .sllv rs rt rd => rForm rs rt rd 0#5 0x04#6
  | .srlv rs rt rd => rForm rs rt rd 0#5 0x06#6
  | .srav rs rt rd => rForm rs rt rd 0#5 0x07#6
  | .dsllv rs rt rd => rForm rs rt rd 0#5 0x14#6
  | .dsrlv rs rt rd => rForm rs rt rd 0#5 0x16#6
  | .dsrav rs rt rd => rForm rs rt rd 0#5 0x17#6
  | .add rs rt rd => rForm rs rt rd 0#5 0x20#6
  | .addu rs rt rd => rForm rs rt rd 0#5 0x21#6
  | .sub rs rt rd => rForm rs rt rd 0#5 0x22#6
  | .subu rs rt rd => rForm rs rt rd 0#5 0x23#6
  | .and rs rt rd => rForm rs rt rd 0#5 0x24#6
  | .or rs rt rd => rForm rs rt rd 0#5 0x25#6
  | .xor rs rt rd => rForm rs rt rd 0#5 0x26#6
  | .nor rs rt rd => rForm rs rt rd 0#5 0x27#6
  | .slt rs rt rd => rForm rs rt rd 0#5 0x2A#6
  | .sltu rs rt rd => rForm rs rt rd 0#5 0x2B#6
  | .dadd rs rt rd => rForm rs rt rd 0#5 0x2C#6
  | .daddu rs rt rd => rForm rs rt rd 0#5 0x2D#6
  | .dsub rs rt rd => rForm rs rt rd 0#5 0x2E#6
  | .dsubu rs rt rd => rForm rs rt rd 0#5 0x2F#6
  | .mult rs rt => rForm rs rt 0 0#5 0x18#6
  | .multu rs rt => rForm rs rt 0 0#5 0x19#6
  | .div rs rt => rForm rs rt 0 0#5 0x1A#6
  | .divu rs rt => rForm rs rt 0 0#5 0x1B#6
  | .dmult rs rt => rForm rs rt 0 0#5 0x1C#6
  | .dmultu rs rt => rForm rs rt 0 0#5 0x1D#6
  | .ddiv rs rt => rForm rs rt 0 0#5 0x1E#6
  | .ddivu rs rt => rForm rs rt 0 0#5 0x1F#6
  | .mfhi rd => rForm 0 0 rd 0#5 0x10#6
  | .mflo rd => rForm 0 0 rd 0#5 0x12#6
  | .mthi rs => rForm rs 0 0 0#5 0x11#6
  | .mtlo rs => rForm rs 0 0 0#5 0x13#6
  | .jr rs => rForm rs 0 0 0#5 0x08#6
  | .jalr rs rd => rForm rs 0 rd 0#5 0x09#6
  | .syscall code => codeForm code 0x0C#6
  | .brk code => codeForm code 0x0D#6
  | .sync => rForm 0 0 0 0#5 0x0F#6
  | .tge rs rt => rForm rs rt 0 0#5 0x30#6
  | .tgeu rs rt => rForm rs rt 0 0#5 0x31#6
  | .tlt rs rt => rForm rs rt 0 0#5 0x32#6
  | .tltu rs rt => rForm rs rt 0 0#5 0x33#6
  | .teq rs rt => rForm rs rt 0 0#5 0x34#6
  | .tne rs rt => rForm rs rt 0 0#5 0x36#6
  | .bltz rs imm => iSelForm 0x01#6 rs 0x00#5 imm
  | .bgez rs imm => iSelForm 0x01#6 rs 0x01#5 imm
  | .bltzl rs imm => iSelForm 0x01#6 rs 0x02#5 imm
  | .bgezl rs imm => iSelForm 0x01#6 rs 0x03#5 imm
  | .bltzal rs imm => iSelForm 0x01#6 rs 0x10#5 imm
  | .bgezal rs imm => iSelForm 0x01#6 rs 0x11#5 imm
  | .bltzall rs imm => iSelForm 0x01#6 rs 0x12#5 imm
  | .bgezall rs imm => iSelForm 0x01#6 rs 0x13#5 imm
  | .tgei rs imm => iSelForm 0x01#6 rs 0x08#5 imm
  | .tgeiu rs imm => iSelForm 0x01#6 rs 0x09#5 imm
  | .tlti rs imm => iSelForm 0x01#6 rs 0x0A#5 imm
  | .tltiu rs imm => iSelForm 0x01#6 rs 0x0B#5 imm
  | .teqi rs imm => iSelForm 0x01#6 rs 0x0C#5 imm
  | .tnei rs imm => iSelForm 0x01#6 rs 0x0E#5 imm
  | .mfc0 rt rd => copForm 0x10#6 0x00#5 rt rd
  | .dmfc0 rt rd => copForm 0x10#6 0x01#5 rt rd
  | .mtc0 rt rd => copForm 0x10#6 0x04#5 rt rd
  | .dmtc0 rt rd => copForm 0x10#6 0x05#5 rt rd
  | .tlbr => coForm 0x01#6
  | .tlbwi => coForm 0x02#6
  | .tlbwr => coForm 0x06#6
  | .tlbp => coForm 0x08#6
  | .eret => coForm 0x18#6
  | .mfc1 rt fs => copForm 0x11#6 0x00#5 rt fs
  | .dmfc1 rt fs => copForm 0x11#6 0x01#5 rt fs
  | .cfc1 rt fs => copForm 0x11#6 0x02#5 rt fs
  | .mtc1 rt fs => copForm 0x11#6 0x04#5 rt fs
  | .dmtc1 rt fs => copForm 0x11#6 0x05#5 rt fs
  | .ctc1 rt fs => copForm 0x11#6 0x06#5 rt fs
  | .bc1f imm => iSelForm 0x11#6 8 0x00#5 imm
  | .bc1t imm => iSelForm 0x11#6 8 0x01#5 imm
  | .bc1fl imm => iSelForm 0x11#6 8 0x02#5 imm
  | .bc1tl imm => iSelForm 0x11#6 8 0x03#5 imm
  | .cop1S => copForm 0x11#6 0x10#5 0 0
  | .cop1D => copForm 0x11#6 0x11#5 0 0
  | .cop1W => copForm 0x11#6 0x14#5 0 0
  | .cop1L => copForm 0x11#6 0x15#5 0 0

/-- The four bytes of an instruction as memory holds them. -/
def encodeBytes (i : Instr) : List Byte := bytesOfWord (encode i)

/-- The bits of an instruction's word that select it or are a field of it; every other bit is ignored
by the decoder (the list of 30_encoding.md R156). -/
def usedBits : Instr → InstrWord
  | .lb _ _ _ => 0xFFFFFFFF#32
  | .lbu _ _ _ => 0xFFFFFFFF#32
  | .lh _ _ _ => 0xFFFFFFFF#32
  | .lhu _ _ _ => 0xFFFFFFFF#32
  | .lw _ _ _ => 0xFFFFFFFF#32
  | .lwu _ _ _ => 0xFFFFFFFF#32
  | .ld _ _ _ => 0xFFFFFFFF#32
  | .lwl _ _ _ => 0xFFFFFFFF#32
  | .lwr _ _ _ => 0xFFFFFFFF#32
  | .ldl _ _ _ => 0xFFFFFFFF#32
  | .ldr _ _ _ => 0xFFFFFFFF#32
  | .ll _ _ _ => 0xFFFFFFFF#32
  | .lld _ _ _ => 0xFFFFFFFF#32
  | .lwc1 _ _ _ => 0xFFFFFFFF#32
  | .ldc1 _ _ _ => 0xFFFFFFFF#32
  | .lui _ _ => 0xFC1FFFFF#32
  | .sb _ _ _ => 0xFFFFFFFF#32
  | .sh _ _ _ => 0xFFFFFFFF#32
  | .sw _ _ _ => 0xFFFFFFFF#32
  | .sd _ _ _ => 0xFFFFFFFF#32
  | .swl _ _ _ => 0xFFFFFFFF#32
  | .swr _ _ _ => 0xFFFFFFFF#32
  | .sdl _ _ _ => 0xFFFFFFFF#32
  | .sdr _ _ _ => 0xFFFFFFFF#32
  | .sc _ _ _ => 0xFFFFFFFF#32
  | .scd _ _ _ => 0xFFFFFFFF#32
  | .swc1 _ _ _ => 0xFFFFFFFF#32
  | .sdc1 _ _ _ => 0xFFFFFFFF#32
  | .addi _ _ _ => 0xFFFFFFFF#32
  | .addiu _ _ _ => 0xFFFFFFFF#32
  | .slti _ _ _ => 0xFFFFFFFF#32
  | .sltiu _ _ _ => 0xFFFFFFFF#32
  | .andi _ _ _ => 0xFFFFFFFF#32
  | .ori _ _ _ => 0xFFFFFFFF#32
  | .xori _ _ _ => 0xFFFFFFFF#32
  | .daddi _ _ _ => 0xFFFFFFFF#32
  | .daddiu _ _ _ => 0xFFFFFFFF#32
  | .beq _ _ _ => 0xFFFFFFFF#32
  | .bne _ _ _ => 0xFFFFFFFF#32
  | .beql _ _ _ => 0xFFFFFFFF#32
  | .bnel _ _ _ => 0xFFFFFFFF#32
  | .blez _ _ => 0xFFE0FFFF#32
  | .bgtz _ _ => 0xFFE0FFFF#32
  | .blezl _ _ => 0xFFE0FFFF#32
  | .bgtzl _ _ => 0xFFE0FFFF#32
  | .cache _ _ _ => 0xFFFFFFFF#32
  | .j _ => 0xFFFFFFFF#32
  | .jal _ => 0xFFFFFFFF#32
  | .sll _ _ _ => 0xFC1FFFFF#32
  | .srl _ _ _ => 0xFC1FFFFF#32
  | .sra _ _ _ => 0xFC1FFFFF#32
  | .dsll _ _ _ => 0xFC1FFFFF#32
  | .dsrl _ _ _ => 0xFC1FFFFF#32
  | .dsra _ _ _ => 0xFC1FFFFF#32
  | .dsll32 _ _ _ => 0xFC1FFFFF#32
  | .dsrl32 _ _ _ => 0xFC1FFFFF#32
  | .dsra32 _ _ _ => 0xFC1FFFFF#32
  | .sllv _ _ _ => 0xFFFFF83F#32
  | .srlv _ _ _ => 0xFFFFF83F#32
  | .srav _ _ _ => 0xFFFFF83F#32
  | .dsllv _ _ _ => 0xFFFFF83F#32
  | .dsrlv _ _ _ => 0xFFFFF83F#32
  | .dsrav _ _ _ => 0xFFFFF83F#32
  | .add _ _ _ => 0xFFFFF83F#32
  | .addu _ _ _ => 0xFFFFF83F#32
  | .sub _ _ _ => 0xFFFFF83F#32
  | .subu _ _ _ => 0xFFFFF83F#32
  | .and _ _ _ => 0xFFFFF83F#32
  | .or _ _ _ => 0xFFFFF83F#32
  | .xor _ _ _ => 0xFFFFF83F#32
  | .nor _ _ _ => 0xFFFFF83F#32
  | .slt _ _ _ => 0xFFFFF83F#32
  | .sltu _ _ _ => 0xFFFFF83F#32
  | .dadd _ _ _ => 0xFFFFF83F#32
  | .daddu _ _ _ => 0xFFFFF83F#32
  | .dsub _ _ _ => 0xFFFFF83F#32
  | .dsubu _ _ _ => 0xFFFFF83F#32
  | .mult _ _ => 0xFFFF003F#32
  | .multu _ _ => 0xFFFF003F#32
  | .div _ _ => 0xFFFF003F#32
  | .divu _ _ => 0xFFFF003F#32
  | .dmult _ _ => 0xFFFF003F#32
  | .dmultu _ _ => 0xFFFF003F#32
  | .ddiv _ _ => 0xFFFF003F#32
  | .ddivu _ _ => 0xFFFF003F#32
  | .mfhi _ => 0xFC00F83F#32
  | .mflo _ => 0xFC00F83F#32
  | .mthi _ => 0xFFE0003F#32
  | .mtlo _ => 0xFFE0003F#32
  | .jr _ => 0xFFE0003F#32
  | .jalr _ _ => 0xFFE0F83F#32
  | .syscall _ => 0xFFFFFFFF#32
  | .brk _ => 0xFFFFFFFF#32
  | .sync => 0xFC00003F#32
  | .tge _ _ => 0xFFFF003F#32
  | .tgeu _ _ => 0xFFFF003F#32
  | .tlt _ _ => 0xFFFF003F#32
  | .tltu _ _ => 0xFFFF003F#32
  | .teq _ _ => 0xFFFF003F#32
  | .tne _ _ => 0xFFFF003F#32
  | .bltz _ _ => 0xFFFFFFFF#32
  | .bgez _ _ => 0xFFFFFFFF#32
  | .bltzl _ _ => 0xFFFFFFFF#32
  | .bgezl _ _ => 0xFFFFFFFF#32
  | .bltzal _ _ => 0xFFFFFFFF#32
  | .bgezal _ _ => 0xFFFFFFFF#32
  | .bltzall _ _ => 0xFFFFFFFF#32
  | .bgezall _ _ => 0xFFFFFFFF#32
  | .tgei _ _ => 0xFFFFFFFF#32
  | .tgeiu _ _ => 0xFFFFFFFF#32
  | .tlti _ _ => 0xFFFFFFFF#32
  | .tltiu _ _ => 0xFFFFFFFF#32
  | .teqi _ _ => 0xFFFFFFFF#32
  | .tnei _ _ => 0xFFFFFFFF#32
  | .mfc0 _ _ => 0xFFFFF800#32
  | .dmfc0 _ _ => 0xFFFFF800#32
  | .mtc0 _ _ => 0xFFFFF800#32
  | .dmtc0 _ _ => 0xFFFFF800#32
  | .tlbr => 0xFE00003F#32
  | .tlbwi => 0xFE00003F#32
  | .tlbwr => 0xFE00003F#32
  | .tlbp => 0xFE00003F#32
  | .eret => 0xFE00003F#32
  | .mfc1 _ _ => 0xFFFFF800#32
  | .dmfc1 _ _ => 0xFFFFF800#32
  | .cfc1 _ _ => 0xFFFFF800#32
  | .mtc1 _ _ => 0xFFFFF800#32
  | .dmtc1 _ _ => 0xFFFFF800#32
  | .ctc1 _ _ => 0xFFFFF800#32
  | .bc1f _ => 0xFFFFFFFF#32
  | .bc1t _ => 0xFFFFFFFF#32
  | .bc1fl _ => 0xFFFFFFFF#32
  | .bc1tl _ => 0xFFFFFFFF#32
  | .cop1S => 0xFFE00000#32
  | .cop1D => 0xFFE00000#32
  | .cop1W => 0xFFE00000#32
  | .cop1L => 0xFFE00000#32

/-! ## The opcode table as data (30_encoding.md R159, R164) -/

/-- A row of the opcode table: a word is the row's instruction exactly when `w &&& mask = pattern`. -/
structure OpcodeRow where
  mnemonic : String
  pattern : InstrWord
  mask : InstrWord
  deriving DecidableEq, Repr

/-- A word matches a row (30_encoding.md R164). -/
def OpcodeRow.matches (r : OpcodeRow) (w : InstrWord) : Bool := w &&& r.mask == r.pattern

/-- The rows selected by the primary opcode (R151). -/
def opcodeRowsPrimary1 : List OpcodeRow :=
  [⟨"LB", 0x80000000#32, 0xFC000000#32⟩,
   ⟨"LBU", 0x90000000#32, 0xFC000000#32⟩,
   ⟨"LH", 0x84000000#32, 0xFC000000#32⟩,
   ⟨"LHU", 0x94000000#32, 0xFC000000#32⟩,
   ⟨"LW", 0x8C000000#32, 0xFC000000#32⟩,
   ⟨"LWU", 0x9C000000#32, 0xFC000000#32⟩,
   ⟨"LD", 0xDC000000#32, 0xFC000000#32⟩,
   ⟨"LWL", 0x88000000#32, 0xFC000000#32⟩,
   ⟨"LWR", 0x98000000#32, 0xFC000000#32⟩,
   ⟨"LDL", 0x68000000#32, 0xFC000000#32⟩,
   ⟨"LDR", 0x6C000000#32, 0xFC000000#32⟩,
   ⟨"LL", 0xC0000000#32, 0xFC000000#32⟩,
   ⟨"LLD", 0xD0000000#32, 0xFC000000#32⟩,
   ⟨"LWC1", 0xC4000000#32, 0xFC000000#32⟩,
   ⟨"LDC1", 0xD4000000#32, 0xFC000000#32⟩,
   ⟨"LUI", 0x3C000000#32, 0xFC000000#32⟩,
   ⟨"SB", 0xA0000000#32, 0xFC000000#32⟩,
   ⟨"SH", 0xA4000000#32, 0xFC000000#32⟩,
   ⟨"SW", 0xAC000000#32, 0xFC000000#32⟩,
   ⟨"SD", 0xFC000000#32, 0xFC000000#32⟩,
   ⟨"SWL", 0xA8000000#32, 0xFC000000#32⟩,
   ⟨"SWR", 0xB8000000#32, 0xFC000000#32⟩,
   ⟨"SDL", 0xB0000000#32, 0xFC000000#32⟩,
   ⟨"SDR", 0xB4000000#32, 0xFC000000#32⟩,
   ⟨"SC", 0xE0000000#32, 0xFC000000#32⟩,
   ⟨"SCD", 0xF0000000#32, 0xFC000000#32⟩,
   ⟨"SWC1", 0xE4000000#32, 0xFC000000#32⟩,
   ⟨"SDC1", 0xF4000000#32, 0xFC000000#32⟩,
   ⟨"ADDI", 0x20000000#32, 0xFC000000#32⟩,
   ⟨"ADDIU", 0x24000000#32, 0xFC000000#32⟩]

/-- The rows selected by the primary opcode (R151). -/
def opcodeRowsPrimary2 : List OpcodeRow :=
  [⟨"SLTI", 0x28000000#32, 0xFC000000#32⟩,
   ⟨"SLTIU", 0x2C000000#32, 0xFC000000#32⟩,
   ⟨"ANDI", 0x30000000#32, 0xFC000000#32⟩,
   ⟨"ORI", 0x34000000#32, 0xFC000000#32⟩,
   ⟨"XORI", 0x38000000#32, 0xFC000000#32⟩,
   ⟨"DADDI", 0x60000000#32, 0xFC000000#32⟩,
   ⟨"DADDIU", 0x64000000#32, 0xFC000000#32⟩,
   ⟨"BEQ", 0x10000000#32, 0xFC000000#32⟩,
   ⟨"BNE", 0x14000000#32, 0xFC000000#32⟩,
   ⟨"BEQL", 0x50000000#32, 0xFC000000#32⟩,
   ⟨"BNEL", 0x54000000#32, 0xFC000000#32⟩,
   ⟨"BLEZ", 0x18000000#32, 0xFC000000#32⟩,
   ⟨"BGTZ", 0x1C000000#32, 0xFC000000#32⟩,
   ⟨"BLEZL", 0x58000000#32, 0xFC000000#32⟩,
   ⟨"BGTZL", 0x5C000000#32, 0xFC000000#32⟩,
   ⟨"CACHE", 0xBC000000#32, 0xFC000000#32⟩,
   ⟨"J", 0x08000000#32, 0xFC000000#32⟩,
   ⟨"JAL", 0x0C000000#32, 0xFC000000#32⟩]

/-- The rows of SPECIAL (R152). -/
def opcodeRowsSpecial1 : List OpcodeRow :=
  [⟨"SLL", 0x00000000#32, 0xFC00003F#32⟩,
   ⟨"SRL", 0x00000002#32, 0xFC00003F#32⟩,
   ⟨"SRA", 0x00000003#32, 0xFC00003F#32⟩,
   ⟨"DSLL", 0x00000038#32, 0xFC00003F#32⟩,
   ⟨"DSRL", 0x0000003A#32, 0xFC00003F#32⟩,
   ⟨"DSRA", 0x0000003B#32, 0xFC00003F#32⟩,
   ⟨"DSLL32", 0x0000003C#32, 0xFC00003F#32⟩,
   ⟨"DSRL32", 0x0000003E#32, 0xFC00003F#32⟩,
   ⟨"DSRA32", 0x0000003F#32, 0xFC00003F#32⟩,
   ⟨"SLLV", 0x00000004#32, 0xFC00003F#32⟩,
   ⟨"SRLV", 0x00000006#32, 0xFC00003F#32⟩,
   ⟨"SRAV", 0x00000007#32, 0xFC00003F#32⟩,
   ⟨"DSLLV", 0x00000014#32, 0xFC00003F#32⟩,
   ⟨"DSRLV", 0x00000016#32, 0xFC00003F#32⟩,
   ⟨"DSRAV", 0x00000017#32, 0xFC00003F#32⟩,
   ⟨"ADD", 0x00000020#32, 0xFC00003F#32⟩,
   ⟨"ADDU", 0x00000021#32, 0xFC00003F#32⟩,
   ⟨"SUB", 0x00000022#32, 0xFC00003F#32⟩,
   ⟨"SUBU", 0x00000023#32, 0xFC00003F#32⟩,
   ⟨"AND", 0x00000024#32, 0xFC00003F#32⟩,
   ⟨"OR", 0x00000025#32, 0xFC00003F#32⟩,
   ⟨"XOR", 0x00000026#32, 0xFC00003F#32⟩,
   ⟨"NOR", 0x00000027#32, 0xFC00003F#32⟩,
   ⟨"SLT", 0x0000002A#32, 0xFC00003F#32⟩,
   ⟨"SLTU", 0x0000002B#32, 0xFC00003F#32⟩,
   ⟨"DADD", 0x0000002C#32, 0xFC00003F#32⟩,
   ⟨"DADDU", 0x0000002D#32, 0xFC00003F#32⟩,
   ⟨"DSUB", 0x0000002E#32, 0xFC00003F#32⟩,
   ⟨"DSUBU", 0x0000002F#32, 0xFC00003F#32⟩,
   ⟨"MULT", 0x00000018#32, 0xFC00003F#32⟩]

/-- The rows of SPECIAL (R152). -/
def opcodeRowsSpecial2 : List OpcodeRow :=
  [⟨"MULTU", 0x00000019#32, 0xFC00003F#32⟩,
   ⟨"DIV", 0x0000001A#32, 0xFC00003F#32⟩,
   ⟨"DIVU", 0x0000001B#32, 0xFC00003F#32⟩,
   ⟨"DMULT", 0x0000001C#32, 0xFC00003F#32⟩,
   ⟨"DMULTU", 0x0000001D#32, 0xFC00003F#32⟩,
   ⟨"DDIV", 0x0000001E#32, 0xFC00003F#32⟩,
   ⟨"DDIVU", 0x0000001F#32, 0xFC00003F#32⟩,
   ⟨"MFHI", 0x00000010#32, 0xFC00003F#32⟩,
   ⟨"MFLO", 0x00000012#32, 0xFC00003F#32⟩,
   ⟨"MTHI", 0x00000011#32, 0xFC00003F#32⟩,
   ⟨"MTLO", 0x00000013#32, 0xFC00003F#32⟩,
   ⟨"JR", 0x00000008#32, 0xFC00003F#32⟩,
   ⟨"JALR", 0x00000009#32, 0xFC00003F#32⟩,
   ⟨"SYSCALL", 0x0000000C#32, 0xFC00003F#32⟩,
   ⟨"BREAK", 0x0000000D#32, 0xFC00003F#32⟩,
   ⟨"SYNC", 0x0000000F#32, 0xFC00003F#32⟩,
   ⟨"TGE", 0x00000030#32, 0xFC00003F#32⟩,
   ⟨"TGEU", 0x00000031#32, 0xFC00003F#32⟩,
   ⟨"TLT", 0x00000032#32, 0xFC00003F#32⟩,
   ⟨"TLTU", 0x00000033#32, 0xFC00003F#32⟩,
   ⟨"TEQ", 0x00000034#32, 0xFC00003F#32⟩,
   ⟨"TNE", 0x00000036#32, 0xFC00003F#32⟩]

/-- The rows of REGIMM (R153). -/
def opcodeRowsRegimm : List OpcodeRow :=
  [⟨"BLTZ", 0x04000000#32, 0xFC1F0000#32⟩,
   ⟨"BGEZ", 0x04010000#32, 0xFC1F0000#32⟩,
   ⟨"BLTZL", 0x04020000#32, 0xFC1F0000#32⟩,
   ⟨"BGEZL", 0x04030000#32, 0xFC1F0000#32⟩,
   ⟨"BLTZAL", 0x04100000#32, 0xFC1F0000#32⟩,
   ⟨"BGEZAL", 0x04110000#32, 0xFC1F0000#32⟩,
   ⟨"BLTZALL", 0x04120000#32, 0xFC1F0000#32⟩,
   ⟨"BGEZALL", 0x04130000#32, 0xFC1F0000#32⟩,
   ⟨"TGEI", 0x04080000#32, 0xFC1F0000#32⟩,
   ⟨"TGEIU", 0x04090000#32, 0xFC1F0000#32⟩,
   ⟨"TLTI", 0x040A0000#32, 0xFC1F0000#32⟩,
   ⟨"TLTIU", 0x040B0000#32, 0xFC1F0000#32⟩,
   ⟨"TEQI", 0x040C0000#32, 0xFC1F0000#32⟩,
   ⟨"TNEI", 0x040E0000#32, 0xFC1F0000#32⟩]

/-- The rows of COP0 and COP1 (R154, R155). -/
def opcodeRowsCop : List OpcodeRow :=
  [⟨"MFC0", 0x40000000#32, 0xFFE00000#32⟩,
   ⟨"DMFC0", 0x40200000#32, 0xFFE00000#32⟩,
   ⟨"MTC0", 0x40800000#32, 0xFFE00000#32⟩,
   ⟨"DMTC0", 0x40A00000#32, 0xFFE00000#32⟩,
   ⟨"TLBR", 0x42000001#32, 0xFE00003F#32⟩,
   ⟨"TLBWI", 0x42000002#32, 0xFE00003F#32⟩,
   ⟨"TLBWR", 0x42000006#32, 0xFE00003F#32⟩,
   ⟨"TLBP", 0x42000008#32, 0xFE00003F#32⟩,
   ⟨"ERET", 0x42000018#32, 0xFE00003F#32⟩,
   ⟨"MFC1", 0x44000000#32, 0xFFE00000#32⟩,
   ⟨"DMFC1", 0x44200000#32, 0xFFE00000#32⟩,
   ⟨"CFC1", 0x44400000#32, 0xFFE00000#32⟩,
   ⟨"MTC1", 0x44800000#32, 0xFFE00000#32⟩,
   ⟨"DMTC1", 0x44A00000#32, 0xFFE00000#32⟩,
   ⟨"CTC1", 0x44C00000#32, 0xFFE00000#32⟩,
   ⟨"COP1.S", 0x46000000#32, 0xFFE00000#32⟩,
   ⟨"COP1.D", 0x46200000#32, 0xFFE00000#32⟩,
   ⟨"COP1.W", 0x46800000#32, 0xFFE00000#32⟩,
   ⟨"COP1.L", 0x46A00000#32, 0xFFE00000#32⟩,
   ⟨"BC1F", 0x45000000#32, 0xFFFF0000#32⟩,
   ⟨"BC1T", 0x45010000#32, 0xFFFF0000#32⟩,
   ⟨"BC1FL", 0x45020000#32, 0xFFFF0000#32⟩,
   ⟨"BC1TL", 0x45030000#32, 0xFFFF0000#32⟩]

/-- The 137 rows. -/
def opcodeTable : List OpcodeRow :=
  opcodeRowsPrimary1 ++ opcodeRowsPrimary2 ++ opcodeRowsSpecial1 ++ opcodeRowsSpecial2 ++ opcodeRowsRegimm ++ opcodeRowsCop

/-- The mnemonic of an instruction, as the opcode table has it. -/
def Instr.mnemonic : Instr → String
  | .lb _ _ _ => "LB"
  | .lbu _ _ _ => "LBU"
  | .lh _ _ _ => "LH"
  | .lhu _ _ _ => "LHU"
  | .lw _ _ _ => "LW"
  | .lwu _ _ _ => "LWU"
  | .ld _ _ _ => "LD"
  | .lwl _ _ _ => "LWL"
  | .lwr _ _ _ => "LWR"
  | .ldl _ _ _ => "LDL"
  | .ldr _ _ _ => "LDR"
  | .ll _ _ _ => "LL"
  | .lld _ _ _ => "LLD"
  | .lwc1 _ _ _ => "LWC1"
  | .ldc1 _ _ _ => "LDC1"
  | .lui _ _ => "LUI"
  | .sb _ _ _ => "SB"
  | .sh _ _ _ => "SH"
  | .sw _ _ _ => "SW"
  | .sd _ _ _ => "SD"
  | .swl _ _ _ => "SWL"
  | .swr _ _ _ => "SWR"
  | .sdl _ _ _ => "SDL"
  | .sdr _ _ _ => "SDR"
  | .sc _ _ _ => "SC"
  | .scd _ _ _ => "SCD"
  | .swc1 _ _ _ => "SWC1"
  | .sdc1 _ _ _ => "SDC1"
  | .addi _ _ _ => "ADDI"
  | .addiu _ _ _ => "ADDIU"
  | .slti _ _ _ => "SLTI"
  | .sltiu _ _ _ => "SLTIU"
  | .andi _ _ _ => "ANDI"
  | .ori _ _ _ => "ORI"
  | .xori _ _ _ => "XORI"
  | .daddi _ _ _ => "DADDI"
  | .daddiu _ _ _ => "DADDIU"
  | .beq _ _ _ => "BEQ"
  | .bne _ _ _ => "BNE"
  | .beql _ _ _ => "BEQL"
  | .bnel _ _ _ => "BNEL"
  | .blez _ _ => "BLEZ"
  | .bgtz _ _ => "BGTZ"
  | .blezl _ _ => "BLEZL"
  | .bgtzl _ _ => "BGTZL"
  | .cache _ _ _ => "CACHE"
  | .j _ => "J"
  | .jal _ => "JAL"
  | .sll _ _ _ => "SLL"
  | .srl _ _ _ => "SRL"
  | .sra _ _ _ => "SRA"
  | .dsll _ _ _ => "DSLL"
  | .dsrl _ _ _ => "DSRL"
  | .dsra _ _ _ => "DSRA"
  | .dsll32 _ _ _ => "DSLL32"
  | .dsrl32 _ _ _ => "DSRL32"
  | .dsra32 _ _ _ => "DSRA32"
  | .sllv _ _ _ => "SLLV"
  | .srlv _ _ _ => "SRLV"
  | .srav _ _ _ => "SRAV"
  | .dsllv _ _ _ => "DSLLV"
  | .dsrlv _ _ _ => "DSRLV"
  | .dsrav _ _ _ => "DSRAV"
  | .add _ _ _ => "ADD"
  | .addu _ _ _ => "ADDU"
  | .sub _ _ _ => "SUB"
  | .subu _ _ _ => "SUBU"
  | .and _ _ _ => "AND"
  | .or _ _ _ => "OR"
  | .xor _ _ _ => "XOR"
  | .nor _ _ _ => "NOR"
  | .slt _ _ _ => "SLT"
  | .sltu _ _ _ => "SLTU"
  | .dadd _ _ _ => "DADD"
  | .daddu _ _ _ => "DADDU"
  | .dsub _ _ _ => "DSUB"
  | .dsubu _ _ _ => "DSUBU"
  | .mult _ _ => "MULT"
  | .multu _ _ => "MULTU"
  | .div _ _ => "DIV"
  | .divu _ _ => "DIVU"
  | .dmult _ _ => "DMULT"
  | .dmultu _ _ => "DMULTU"
  | .ddiv _ _ => "DDIV"
  | .ddivu _ _ => "DDIVU"
  | .mfhi _ => "MFHI"
  | .mflo _ => "MFLO"
  | .mthi _ => "MTHI"
  | .mtlo _ => "MTLO"
  | .jr _ => "JR"
  | .jalr _ _ => "JALR"
  | .syscall _ => "SYSCALL"
  | .brk _ => "BREAK"
  | .sync => "SYNC"
  | .tge _ _ => "TGE"
  | .tgeu _ _ => "TGEU"
  | .tlt _ _ => "TLT"
  | .tltu _ _ => "TLTU"
  | .teq _ _ => "TEQ"
  | .tne _ _ => "TNE"
  | .bltz _ _ => "BLTZ"
  | .bgez _ _ => "BGEZ"
  | .bltzl _ _ => "BLTZL"
  | .bgezl _ _ => "BGEZL"
  | .bltzal _ _ => "BLTZAL"
  | .bgezal _ _ => "BGEZAL"
  | .bltzall _ _ => "BLTZALL"
  | .bgezall _ _ => "BGEZALL"
  | .tgei _ _ => "TGEI"
  | .tgeiu _ _ => "TGEIU"
  | .tlti _ _ => "TLTI"
  | .tltiu _ _ => "TLTIU"
  | .teqi _ _ => "TEQI"
  | .tnei _ _ => "TNEI"
  | .mfc0 _ _ => "MFC0"
  | .dmfc0 _ _ => "DMFC0"
  | .mtc0 _ _ => "MTC0"
  | .dmtc0 _ _ => "DMTC0"
  | .tlbr => "TLBR"
  | .tlbwi => "TLBWI"
  | .tlbwr => "TLBWR"
  | .tlbp => "TLBP"
  | .eret => "ERET"
  | .mfc1 _ _ => "MFC1"
  | .dmfc1 _ _ => "DMFC1"
  | .cfc1 _ _ => "CFC1"
  | .mtc1 _ _ => "MTC1"
  | .dmtc1 _ _ => "DMTC1"
  | .ctc1 _ _ => "CTC1"
  | .bc1f _ => "BC1F"
  | .bc1t _ => "BC1T"
  | .bc1fl _ => "BC1FL"
  | .bc1tl _ => "BC1TL"
  | .cop1S => "COP1.S"
  | .cop1D => "COP1.D"
  | .cop1W => "COP1.W"
  | .cop1L => "COP1.L"

end Sys2Proof
end

