-- ==== Sys2Proof/Machine/State.lean ====
section
/-! DEFINITION. The state of the machine as plain data (10_state.md), the ways it stops, and the state
after reset (10_state.md R71). -/

namespace Sys2Proof.Machine

/-- Memory: (address, byte) pairs in rising order of address, no byte equal to `Config.unlistedByte`
(log 8). The address is the physical one, the coprocessor window reduced to its first copy (20_memory.md
R93, R94): `RAM[i]` at `i`, `DMEM[i]` at `0x0400_0000 + i`, `IMEM[i]` at `0x0400_1000 + i`. -/
abbrev Memory := List Host.Cell

/-- The reasons of the fatal kind `UnsupportedFeature` (60_exceptions.md R470). -/
inductive UnsupportedReason where
  | unmappedSegment
  | unalignedAddress
  | unalignedForm
  | loadLinked
  | storeConditional
  | tlb
  | fcrIndex
  | unimplementedOpcode (cls : UnimplClass)
  | delaySlotTransfer
  | dmaDirection
  deriving DecidableEq, Repr

/-- The reasons of the fatal kind `MemoryFault` (60_exceptions.md R470); `address` carries the physical
address. -/
inductive MemoryFaultReason where
  | address (pa : Nat)
  | dmaCartRange
  | dmaRamRange
  deriving DecidableEq, Repr

/-- A fatal condition: its kind and its reason (60_exceptions.md R470). `bootFailure` has the one reason
`CartTooShort`. -/
inductive Fatal where
  | unsupportedFeature (reason : UnsupportedReason)
  | memoryFault (reason : MemoryFaultReason)
  | unboundedBlock (start : Word)
  | bootFailure
  deriving DecidableEq, Repr

/-- The run phase (10_state.md R69; `stopped` is 92_eei_decisions.md D36; log 14). -/
inductive Phase where
  | reset
  | boot1Done
  | running
  | halted (f : Fatal)
  | stopped
  deriving DecidableEq, Repr

/-- One (address, instruction word) pair of the block buffer (10_state.md R66; log 2). -/
structure BlockEntry where
  addr : Word
  word : InstrWord
  deriving DecidableEq, Repr

/-- The pending-branch latch between a control transfer and the end of its delay slot (10_state.md R67);
`in_delay_slot` is its presence. -/
structure PendingBranch where
  taken : Bool
  target : Word
  ctAddr : Word
  deriving DecidableEq, Repr

/-- The collaborator attached to the peripheral-interface port (20_memory.md R95, 92_eei_decisions.md
D11; log 4). -/
inductive Peripheral where
  /-- the oracle: `draws` counts the accesses answered so far and indexes the free values -/
  | oracle (draws : Nat)
  /-- the reference collaborator with its two registers -/
  | reference (dram cart : BitVec 32)
  deriving DecidableEq, Repr

/-- Everything the spec gives the machine. `cfg`, and `draws` inside `pi`, are the model's own. -/
structure State where
  /-- the 32 general registers; slot 0 exists and is never used (10_state.md R30, R31; log 10) -/
  x : Vector Word 32
  /-- the program counter, `PC_WIDTH` bits (10_state.md R34; log 21) -/
  pc : PcWord
  /-- `HI` (10_state.md R38) -/
  hi : Word
  /-- `LO` (10_state.md R38) -/
  lo : Word
  /-- the load-linked flag (10_state.md R39) -/
  llbit : Bool
  /-- the 32 floating-point registers, `FPR_WIDTH` bits each (10_state.md R51; log 21) -/
  f : Vector FprWord 32
  /-- `fcr[0]` (10_state.md R52) -/
  fcr0 : Word
  /-- `fcr[31]`, FCSR (10_state.md R53) -/
  fcsr : Word
  /-- the 32 slots of the system-control register block, `CP0_SLOT_WIDTH` bits each (10_state.md R40, R41;
  log 21) -/
  c0 : Vector Cp0Word 32
  /-- RAM, DMEM and IMEM (10_state.md R59, R60) -/
  mem : Memory
  /-- the cartridge image, an input no step changes (10_state.md R62; log 3) -/
  cart : List Byte
  /-- the peripheral-interface collaborator (10_state.md R61; log 4) -/
  pi : Peripheral
  /-- the entries of the current block not yet executed (10_state.md R66) -/
  block : List BlockEntry
  /-- the pending-branch latch (10_state.md R67) -/
  latch : Option PendingBranch
  /-- the run phase (10_state.md R69) -/
  phase : Phase
  /-- the parameters of 00_scope.md R8, which no step changes (log 5) -/
  cfg : Params
  deriving DecidableEq, Repr

/-- Why `step` answers no next state. Safe: the spec takes no step there either. -/
inductive Fault where
  /-- raised by `step` when the phase is `Halted`: no step is taken until the block is reset
  (60_exceptions.md R471). Safe. -/
  | halted (f : Fatal)
  /-- raised by `step` when the host has stopped the block: no further step happens (60_exceptions.md
  R498). Safe. -/
  | stopped
  deriving DecidableEq, Repr

/-- Why an instruction has no meaning here. -/
inductive Refusal where
  /-- raised by an arm of `exec` whose instruction has no meaning yet; no arm does. Safe. -/
  | notModelled (mnemonic : String)
  deriving DecidableEq, Repr

/-- The state after reset, before boot stage one, under the defaults of 00_scope.md R8 (10_state.md R71).
No cartridge is attached and the peripheral interface is the oracle (log 3, log 4, log 5). -/
def State.reset : State :=
  { x := Vector.replicate 32 0#64
    pc := 0#64
    hi := 0#64
    lo := 0#64
    llbit := false
    f := Vector.replicate 32 0#64
    fcr0 := Params.defaults.fcr0
    fcsr := 0#64
    c0 := ((Vector.replicate 32 0#64).set 15 Params.defaults.prid).set 16 Config.configConstant
    mem := []
    cart := []
    pi := .oracle 0
    block := []
    latch := none
    phase := .reset
    cfg := Params.defaults }

end Sys2Proof.Machine
end

