-- ==== Sys2Proof/Machine/Ops.lean ====
section
/-! DEFINITION. The named operations over memory and registers, the outcomes of an access and of an
operation, taking an exception and returning from one, and what ends a step. -/

namespace Sys2Proof.Machine

/-! ## Memory, one byte at a time -/

/-- The byte at an address; an address that is not listed reads as `Config.unlistedByte`. -/
def Memory.get : Memory → Nat → Byte
  | [], _ => Config.unlistedByte
  | (k, v) :: rest, a => if k = a then v else Memory.get rest a

/-- Write one byte, keeping the canonical form. -/
def Memory.set : Memory → Nat → Byte → Memory
  | [], a, b => if b = Config.unlistedByte then [] else [(a, b)]
  | (k, v) :: rest, a, b =>
    if a < k then
      if b = Config.unlistedByte then (k, v) :: rest else (a, b) :: (k, v) :: rest
    else if a = k then
      if b = Config.unlistedByte then rest else (a, b) :: rest
    else (k, v) :: Memory.set rest a b

/-- Write bytes at consecutive addresses, `bytes[i]` at `a + i`. -/
def Memory.setBytes (m : Memory) (a : Nat) : List Byte → Memory
  | [] => m
  | b :: bs => (Memory.setBytes m (a + 1) bs).set a b

/-- Every listed address lies above `lo`, the addresses rise strictly, and no listed byte equals
`Config.unlistedByte`. -/
def Memory.sortedFrom (lo : Nat) : Memory → Bool
  | [] => true
  | (k, v) :: rest => decide (lo ≤ k) && v != Config.unlistedByte && Memory.sortedFrom (k + 1) rest

/-- The canonical form of a memory. -/
def Memory.wf (m : Memory) : Bool := m.sortedFrom 0

/-- `RAM[i]` (10_state.md R59). -/
def State.ram (s : State) (i : Nat) : Byte := s.mem.get i

/-- `DMEM[i]` (10_state.md R60). -/
def State.dmem (s : State) (i : Nat) : Byte := s.mem.get (Config.spBase + i)

/-- `IMEM[i]` (10_state.md R60). -/
def State.imem (s : State) (i : Nat) : Byte := s.mem.get (Config.spBase + Config.dmemSize + i)

/-! ## Registers whose width is a parameter (00_scope.md R8; log 21) -/

/-- What a register of width `w` holds of `v`, as 64 bits: its low bits, extended in sign. At the default
width it is `v`. That the bits a narrower register lacks read as its sign is the model's choice (log 21). -/
def fitWidth (w : RegWidth) (v : Word) : Word := (v.setWidth w.bits).signExtend 64

/-- The bits that a slot of width `w` has. -/
def lowBits (w : RegWidth) : Word := (BitVec.allOnes w.bits).setWidth 64

/-- An address as the program counter holds it: `PC_WIDTH` bits (10_state.md R34; 92_eei_decisions.md D3). -/
def toPc (cfg : Params) (a : Word) : PcWord := fitWidth cfg.pcWidth a

/-! ## General and floating-point registers -/

/-- `x[i]`: register 0 reads as 0 (10_state.md R31). -/
def State.readX (s : State) (i : RegIdx) : Word := if i = 0 then 0#64 else s.x[i]

/-- `x[i] <- v`: a write of register 0 is discarded (10_state.md R31). -/
def State.writeX (s : State) (i : RegIdx) (v : Word) : State :=
  if i = 0 then s else { s with x := s.x.set i v }

/-- `f[i]` (10_state.md R51). -/
def State.readF (s : State) (i : RegIdx) : Word := s.f[i]

/-- `f[i] <- v`: `FPR_WIDTH` bits of it (10_state.md R51; log 21). -/
def State.writeF (s : State) (i : RegIdx) (v : Word) : State :=
  { s with f := s.f.set i (fitWidth s.cfg.fprWidth v) }

/-! ## System-control registers -/

/-- The software write mask `WM[i]` (10_state.md R41 to R48); 0 for the read-only PRId and for the
numbers that hold no register. -/
def writeMask (i : RegIdx) : Word :=
  match i.val with
  | 0 => 0xFFFFFFFF#64            -- Index
  | 1 => 0xFFFFFFFF#64            -- Random
  | 2 => 0xFFFFFFFFFFFFFFFF#64    -- EntryLo0
  | 3 => 0xFFFFFFFFFFFFFFFF#64    -- EntryLo1
  | 4 => 0xFFFFFFFFFFFFFFFF#64    -- Context
  | 5 => 0xFFFFFFFF#64            -- PageMask
  | 6 => 0xFFFFFFFF#64            -- Wired
  | 8 => 0xFFFFFFFFFFFFFFFF#64    -- BadVAddr
  | 9 => 0xFFFFFFFF#64            -- Count
  | 10 => 0xFFFFFFFFFFFFFFFF#64   -- EntryHi
  | 11 => 0xFFFFFFFF#64           -- Compare
  | 12 => 0xFF57FFFF#64           -- Status
  | 13 => 0x300#64                -- Cause
  | 14 => 0xFFFFFFFFFFFFFFFF#64   -- EPC
  | 16 => 0x0F00800F#64           -- Config
  | 17 => 0xFFFFFFFF#64           -- LLAddr
  | 18 => 0xFFFFFFFF#64           -- WatchLo
  | 19 => 0xFFFFFFFF#64           -- WatchHi
  | 20 => 0xFFFFFFFE00000000#64   -- XContext
  | 26 => 0xFFFFFFFF#64           -- PErr
  | 27 => 0xFFFFFFFF#64           -- CacheErr
  | 28 => 0x0FFFFFC0#64           -- TagLo
  | 29 => 0xFFFFFFFF#64           -- TagHi
  | 30 => 0xFFFFFFFFFFFFFFFF#64   -- ErrorEPC
  | _ => 0#64                     -- 7, 15 (PRId), 21 to 25, 31

/-- `c0[i]`, the bits of the slot (10_state.md R40). -/
def State.readC0 (s : State) (i : RegIdx) : Word := s.c0[i]

/-- `old` with the bits in `mask` replaced by those of `v`. -/
def mergeBits (mask old v : Word) : Word := (old &&& ~~~mask) ||| (v &&& mask)

/-- The bits software writes in a slot: those of `WM[i]` that the slot has (10_state.md R40; log 21). -/
def slotMask (cfg : Params) (i : RegIdx) : Word := writeMask i &&& lowBits cfg.cp0Width

/-- `c0[i] <- v` through the write mask (10_state.md R40). -/
def State.writeC0 (s : State) (i : RegIdx) (v : Word) : State :=
  { s with c0 := s.c0.set i (mergeBits (slotMask s.cfg i) s.c0[i] v) }

/-- A slot written by the hardware, bypassing the write mask (60_exceptions.md R480). -/
def State.setC0 (s : State) (i : RegIdx) (v : Word) : State :=
  { s with c0 := s.c0.set i (mergeBits (lowBits s.cfg.cp0Width) s.c0[i] v) }

/-- The value of a slot, as a move or a return from exception reads it: its `CP0_SLOT_WIDTH` bits as 64
(45_move.md R410; log 21). -/
def State.c0Value (s : State) (i : RegIdx) : Word := fitWidth s.cfg.cp0Width (s.readC0 i)

/-- `Status`, `c0[12]` (10_state.md R42). -/
def State.status (s : State) : Word := s.readC0 12

/-- `Cause`, `c0[13]` (10_state.md R43). -/
def State.cause (s : State) : Word := s.readC0 13

/-- `EPC`, `c0[14]` (10_state.md R48). -/
def State.epc (s : State) : Word := s.c0Value 14

/-- `ErrorEPC`, `c0[30]` (10_state.md R48). -/
def State.errorEpc (s : State) : Word := s.c0Value 30

/-- `Status.EXL` (10_state.md R42). -/
def State.exl (s : State) : Bool := s.status.getLsbD 1

/-- `Status.ERL` (10_state.md R42). -/
def State.erl (s : State) : Bool := s.status.getLsbD 2

/-- `Status.BEV` (10_state.md R42). -/
def State.bev (s : State) : Bool := s.status.getLsbD 22

/-- `Status.CU1` (10_state.md R42). -/
def State.cu1 (s : State) : Bool := s.status.getLsbD 29

/-- `v` with the `n` bits from bit `lo` up replaced by `field`. -/
def insertField {n : Nat} (v : Word) (lo : Nat) (field : BitVec n) : Word :=
  (v &&& ~~~((BitVec.allOnes n).setWidth 64 <<< lo)) ||| (field.setWidth 64 <<< lo)

/-! ## The end of an operation -/

/-- The address the program counter takes when the operation at `pc` is `Done`: the next word, or after
a delay slot the target of a taken branch (40_pipeline.md R203, R206). -/
def State.nextPc (s : State) : Word :=
  match s.latch with
  | some b => toPc s.cfg (if b.taken then b.target else s.pc + 4#64)
  | none => toPc s.cfg (s.pc + 4#64)

/-- What follows an operation that is `Done`: the program counter moves, the entry leaves the block
buffer, and the latch ends with the delay slot (40_pipeline.md R201, R203, R206). -/
def State.advance (s : State) : State :=
  { s with pc := s.nextPc, block := s.block.tail, latch := none }

/-- Leaving a block: the rest of it and the latch are dropped (40_pipeline.md R207). -/
def State.leaveBlock (s : State) : State := { s with block := [], latch := none }

/-- Halting on a fatal condition: only the run phase changes (60_exceptions.md R471; log 12). -/
def State.halt (s : State) (f : Fatal) : State := { s with phase := .halted f }

/-- The outcome of an access of the memory router. A state is handed on because an access of the
peripheral-interface window has its effect inside the collaborator, also where the access or the
operation ends in a fatal condition (20_memory.md R110; log 11). -/
inductive Access (α : Type) where
  | ok (a : α) (s : State)
  | fatal (f : Fatal) (s : State)
  deriving DecidableEq, Repr

/-- The result of executing an IR operation (40_pipeline.md R200). -/
inductive Result where
  | done (s : State)
  | exception (s : State)
  | redirected (s : State)
  | fatal (f : Fatal) (s : State)
  deriving DecidableEq, Repr

/-- The next state of a step from the result of its operation (40_pipeline.md R201, R207, R208). A fatal
condition gives a next state whose phase is `Halted` (log 1). -/
def finish : Result → Host.Outcome State Fault Refusal
  | .done s => .next s.advance
  | .exception s => .next s
  | .redirected s => .next s.leaveBlock
  | .fatal f s => .next (s.halt f)

/-! ## Exceptions -/

/-- The exception codes of `Cause.ExcCode` (60_exceptions.md R475); this block raises `sys` to `tr`. -/
inductive ExcKind where
  | int
  | mod
  | tlbl
  | tlbs
  | adel
  | ades
  | ibe
  | dbe
  | sys
  | bp
  | ri
  | cpu
  | ov
  | tr
  | fpe
  | watch
  deriving DecidableEq, Repr

/-- The number of an exception (60_exceptions.md R475). -/
def excCode : ExcKind → BitVec 5
  | .int => 0#5
  | .mod => 1#5
  | .tlbl => 2#5
  | .tlbs => 3#5
  | .adel => 4#5
  | .ades => 5#5
  | .ibe => 6#5
  | .dbe => 7#5
  | .sys => 8#5
  | .bp => 9#5
  | .ri => 10#5
  | .cpu => 11#5
  | .ov => 12#5
  | .tr => 13#5
  | .fpe => 15#5
  | .watch => 23#5

/-- The EPC that exception entry leaves: unchanged when `EXL` is set, else the address of the branch in
a delay slot, else the address of the instruction (60_exceptions.md R480). -/
def State.entryEpc (s : State) : Word :=
  if s.exl then s.epc
  else match s.latch with
    | some b => b.ctAddr
    | none => s.pc

/-- The Cause that exception entry leaves (60_exceptions.md R480). -/
def State.entryCause (s : State) (code : BitVec 5) (ce : BitVec 2) : Word :=
  let bd := if s.exl then s.cause.getLsbD 31 else s.latch.isSome
  insertField (insertField (insertField s.cause 31 (BitVec.ofBool bd)) 2 code) 28 ce

/-- Exception entry, `Enter(code, ce, a, ds, c)` of 60_exceptions.md R480, with `a` the program counter
and `ds`, `c` from the latch. -/
def State.enterException (s : State) (code : BitVec 5) (ce : BitVec 2) : State :=
  { (((s.setC0 14 s.entryEpc).setC0 13 (s.entryCause code ce)).setC0 12
      (insertField s.status 1 1#1)).leaveBlock with
    pc := toPc s.cfg (s.cfg.excVector s.bev) }

/-- `raise E(ce)` (60_exceptions.md R478). -/
def raise (e : ExcKind) (ce : BitVec 2) (s : State) : Result :=
  .exception (s.enterException (excCode e) ce)

/-- The effect of `ERET` (46_system.md R454), its check for a delay slot apart. -/
def State.returnFromException (s : State) : State :=
  if s.erl then
    { s.setC0 12 (insertField s.status 2 0#1) with pc := toPc s.cfg s.errorEpc, llbit := false }
  else
    { s.setC0 12 (insertField s.status 1 0#1) with pc := toPc s.cfg s.epc, llbit := false }

end Sys2Proof.Machine
end

