-- ==== Sys2Proof/Machine/ControlRegs.lean ====
section
/-! DEFINITION. The named fields of the structured control registers (10_state.md R42 to R47, R52, R53;
00_scope.md R22), and which bits of a slot each writer may change. -/

namespace Sys2Proof.Machine

/-! ## Status (R42) -/

/-- `Status.CU[3:0]`. -/
def statusCu (v : Word) : BitVec 4 := v.extractLsb' 28 4

/-- `Status.RP`. -/
def statusRp (v : Word) : Bool := v.getLsbD 27

/-- `Status.FR`. -/
def statusFr (v : Word) : Bool := v.getLsbD 26

/-- `Status.RE`. -/
def statusRe (v : Word) : Bool := v.getLsbD 25

/-- `Status.ITS`. -/
def statusIts (v : Word) : Bool := v.getLsbD 24

/-- `Status.BEV`. -/
def statusBev (v : Word) : Bool := v.getLsbD 22

/-- `Status.TS`. -/
def statusTs (v : Word) : Bool := v.getLsbD 21

/-- `Status.SR`. -/
def statusSr (v : Word) : Bool := v.getLsbD 20

/-- `Status.CH`. -/
def statusCh (v : Word) : Bool := v.getLsbD 18

/-- `Status.CE`. -/
def statusCe (v : Word) : Bool := v.getLsbD 17

/-- `Status.DE`. -/
def statusDe (v : Word) : Bool := v.getLsbD 16

/-- `Status.IM[7:0]`. -/
def statusIm (v : Word) : BitVec 8 := v.extractLsb' 8 8

/-- `Status.KX`. -/
def statusKx (v : Word) : Bool := v.getLsbD 7

/-- `Status.SX`. -/
def statusSx (v : Word) : Bool := v.getLsbD 6

/-- `Status.UX`. -/
def statusUx (v : Word) : Bool := v.getLsbD 5

/-- `Status.KSU`. -/
def statusKsu (v : Word) : BitVec 2 := v.extractLsb' 3 2

/-- `Status.ERL`. -/
def statusErl (v : Word) : Bool := v.getLsbD 2

/-- `Status.EXL`. -/
def statusExl (v : Word) : Bool := v.getLsbD 1

/-- `Status.IE`. -/
def statusIe (v : Word) : Bool := v.getLsbD 0

/-! ## Cause (R43) -/

/-- `Cause.BD`. -/
def causeBd (v : Word) : Bool := v.getLsbD 31

/-- `Cause.CE`. -/
def causeCe (v : Word) : BitVec 2 := v.extractLsb' 28 2

/-- `Cause.IP[7:0]`. -/
def causeIp (v : Word) : BitVec 8 := v.extractLsb' 8 8

/-- `Cause.ExcCode`. -/
def causeExcCode (v : Word) : BitVec 5 := v.extractLsb' 2 5

/-! ## PRId (R44), Config (R45), XContext (R46), TagLo (R47) -/

/-- `PRId.Imp`; `fcr[0]` has the same field (R52). -/
def pridImp (v : Word) : BitVec 8 := v.extractLsb' 8 8

/-- `PRId.Rev`; `fcr[0]` has the same field (R52). -/
def pridRev (v : Word) : BitVec 8 := v.extractLsb' 0 8

/-- `Config.EC`. -/
def configEc (v : Word) : BitVec 3 := v.extractLsb' 28 3

/-- `Config.EP`. -/
def configEp (v : Word) : BitVec 4 := v.extractLsb' 24 4

/-- `Config.BE`. -/
def configBe (v : Word) : Bool := v.getLsbD 15

/-- `Config.CU`. -/
def configCu (v : Word) : Bool := v.getLsbD 3

/-- `Config.K0`. -/
def configK0 (v : Word) : BitVec 3 := v.extractLsb' 0 3

/-- `XContext.PTEBase`. -/
def xcontextPteBase (v : Word) : BitVec 31 := v.extractLsb' 33 31

/-- `XContext.R`. -/
def xcontextR (v : Word) : BitVec 2 := v.extractLsb' 31 2

/-- `XContext.BadVPN2`. -/
def xcontextBadVpn2 (v : Word) : BitVec 27 := v.extractLsb' 4 27

/-- `TagLo.PTagLo`. -/
def tagloPTagLo (v : Word) : BitVec 20 := v.extractLsb' 8 20

/-- `TagLo.PState`. -/
def tagloPState (v : Word) : BitVec 2 := v.extractLsb' 6 2

/-! ## FCSR (R53) -/

/-- `FCSR.FS`. -/
def fcsrFs (v : Word) : Bool := v.getLsbD 24

/-- `FCSR.C`, the condition bit. -/
def fcsrC (v : Word) : Bool := v.getLsbD 23

/-- `FCSR.Cause`: E, V, Z, O, U, I from bit 17 down to bit 12. -/
def fcsrCause (v : Word) : BitVec 6 := v.extractLsb' 12 6

/-- `FCSR.Enable`: V, Z, O, U, I from bit 11 down to bit 7. -/
def fcsrEnable (v : Word) : BitVec 5 := v.extractLsb' 7 5

/-- `FCSR.Flag`: V, Z, O, U, I from bit 6 down to bit 2. -/
def fcsrFlag (v : Word) : BitVec 5 := v.extractLsb' 2 5

/-- `FCSR.RM`. -/
def fcsrRm (v : Word) : BitVec 2 := v.extractLsb' 0 2

/-! ## Writers -/

/-- The bits exception entry and `ERET` may change in a slot, outside or inside its write mask
(10_state.md R40, R43, R48; 60_exceptions.md R480; 46_system.md R454). -/
def hardwareMask (i : RegIdx) : Word :=
  match i.val with
  | 12 => 0x6#64                  -- Status.EXL, ERL
  | 13 => 0xB000007C#64           -- Cause.BD, CE, ExcCode
  | 14 => 0xFFFFFFFFFFFFFFFF#64   -- EPC
  | _ => 0#64

/-- The bits of a slot that no writer changes: the reserved, constant and read-only bits, and those that a
slot of `CP0_SLOT_WIDTH` bits does not have (log 21). -/
def reservedBits (cfg : Params) (i : RegIdx) : Word :=
  ~~~((writeMask i ||| hardwareMask i) &&& lowBits cfg.cp0Width)

/-- What the reserved, constant and read-only bits of a slot hold (10_state.md R40 to R47): 0 but for
PRId and Config. -/
def constantPattern (cfg : Params) (i : RegIdx) : Word :=
  match i.val with
  | 15 => cfg.prid
  | 16 => Config.configConstant
  | _ => 0#64

end Sys2Proof.Machine
end

