-- ==== Sys2Proof/Machine/Operands.lean ====
section
/-! DEFINITION. Every operand form: effective addresses, operands of ALU and trap operations, the
locations of the IR (30_encoding.md R141), extension, and the order of bytes in a value. -/

namespace Sys2Proof.Machine

/-- `sext_32(v)` (00_scope.md R13). -/
def sext32 (v : Word) : Word := (v.setWidth 32).signExtend 64

/-- The effective address `x[base] + offset`, modulo 2 to the power `EA_WIDTH`, which is 64 by default
(41_load_store.md R222; log 21). -/
def State.effAddr (s : State) (base : RegIdx) (offset : Word) : Word :=
  fitWidth s.cfg.eaWidth (s.readX base + offset)

/-- The number of bytes a Load or Store moves (20_memory.md R109). -/
def bytesOf : Bits → Nat
  | .b8 => 1
  | .b16 => 2
  | .b32 => 4
  | .b64 => 8

/-- `sext_bits(v)` and `zext_bits(v)` of a loaded value (41_load_store.md R220). -/
def extend (w : Width) (v : Word) : Word :=
  match w.bits, w.ext with
  | .b8, .s => (v.setWidth 8).signExtend 64
  | .b8, .z => (v.setWidth 8).setWidth 64
  | .b16, .s => (v.setWidth 16).signExtend 64
  | .b16, .z => (v.setWidth 16).setWidth 64
  | .b32, .s => sext32 v
  | .b32, .z => (v.setWidth 32).setWidth 64
  | .b64, _ => v

/-! ## Bytes of a value -/

/-- The value of bytes, the first one least significant. -/
def littleValue : List Byte → Word
  | [] => 0#64
  | b :: bs => (littleValue bs <<< 8) ||| b.setWidth 64

/-- The value of bytes in `LOAD_BYTE_ORDER` (20_memory.md R104). -/
def loadValue : ByteOrder → List Byte → Word
  | .big, bs => littleValue bs.reverse
  | .little, bs => littleValue bs

/-- The low `n` bytes of a value, least significant first (20_memory.md R105). -/
def storeBytes (v : Word) : Nat → List Byte
  | 0 => []
  | n + 1 => v.setWidth 8 :: storeBytes (v >>> 8) n

/-! ## Locations -/

/-- The value of the source of a Store (30_encoding.md R141). -/
def State.readData (s : State) : DataReg → Word
  | .g i => s.readX i
  | .f i => s.readF i

/-- The destination of a Load receives `v`, read as `w` says (41_load_store.md R220, R223): a 32-bit
load of a floating-point register keeps its upper half. -/
def State.writeData (s : State) (d : DataReg) (w : Width) (v : Word) : State :=
  match d with
  | .g i => s.writeX i (extend w v)
  | .f i =>
    match w.bits with
    | .b64 => s.writeF i v
    | _ => s.writeF i (insertField (s.readF i) 0 (v.setWidth 32))

/-- `Val` of an operand (42_alu_arith_logic.md R270). -/
def State.operand (s : State) : Opnd → Word
  | .reg i => s.readX i
  | .hi => s.hi
  | .lo => s.lo
  | .imm v => v
  | .sa n => n.setWidth 64

/-- `a` of an ALU operation: 0 where `src1` is absent (42_alu_arith_logic.md R270). -/
def State.optionalOperand (s : State) : Option Opnd → Word
  | none => 0#64
  | some o => s.operand o

/-- The destination of an ALU operation receives `v` (42_alu_arith_logic.md R270). -/
def State.writeAlu (s : State) (d : AluDest) (v : Word) : State :=
  match d with
  | .g i => s.writeX i v
  | .hi => { s with hi := v }
  | .lo => { s with lo := v }

/-- The bits of `fcr[31]` that a write changes (10_state.md R53). -/
def fcsrMask : Word := 0x0183FFFF#64

/-- `fcr[i]`: there are two registers, 0 and 31; `none` for every other number (10_state.md R52). -/
def State.readFcr (s : State) (i : RegIdx) : Option Word :=
  if i = 0 then some s.fcr0 else if i = 31 then some s.fcsr else none

/-- `fcr[i] <- v`: discarded for 0, masked for 31, `none` for every other number (10_state.md R52, R53;
45_move.md R423). -/
def State.writeFcr (s : State) (i : RegIdx) (v : Word) : Option State :=
  if i = 0 then some s else if i = 31 then some { s with fcsr := v &&& fcsrMask } else none

/-- `RdLoc` of a coprocessor register; `none` for a control register that does not exist
(30_encoding.md R141). -/
def State.readCop (s : State) : CopReg → Option Word
  | .c0 i => some (s.c0Value i)
  | .f i => some (s.readF i)
  | .fc i => s.readFcr i

/-- `WrLoc` of a coprocessor register; `none` for a control register that does not exist
(30_encoding.md R141). -/
def State.writeCop (s : State) (r : CopReg) (v : Word) : Option State :=
  match r with
  | .c0 i => some (s.writeC0 i v)
  | .f i => some (s.writeF i v)
  | .fc i => s.writeFcr i v

/-- The location belongs to coprocessor 1, which `Status.CU1` guards (45_move.md R411). -/
def copRegIsCop1 : CopReg → Bool
  | .c0 _ => false
  | .f _ => true
  | .fc _ => true

/-- The location belongs to coprocessor 1 (41_load_store.md R220, R221). -/
def dataRegIsCop1 : DataReg → Bool
  | .g _ => false
  | .f _ => true

end Sys2Proof.Machine
end

