-- ==== Sys2Proof/Machine/Peripheral.lean ====
section
/-! DEFINITION. The peripheral-interface collaborator (20_memory.md R95; 92_eei_decisions.md D11; log 4). -/

namespace Sys2Proof.Machine

/-- The value of four written bytes, least significant first (D11). -/
def wordOfWritten (bytes : List Byte) : BitVec 32 := (littleValue bytes).setWidth 32

/-- The four bytes of a collaborator register, least significant first (D11). -/
def bytesOfRegister (v : BitVec 32) : List Byte := storeBytes (v.setWidth 64) 4

/-- The bytes of a transfer length: the low 24 bits plus one (D11). -/
def transferLength (v : BitVec 32) : BitVec 32 := (v &&& 0x00FFFFFF#32) + 1#32

/-- `PI.read(pa, n)` of the reference collaborator: a read changes neither register, and a read that is
not four bytes wide, or of another address, answers zeros (D11). -/
def referenceRead (dram cart : BitVec 32) (pa n : Nat) : List Byte :=
  if n = 4 ∧ pa = 0x04600000 then bytesOfRegister dram
  else if n = 4 ∧ pa = 0x04600004 then bytesOfRegister cart
  else List.replicate n 0#8

/-- `PI.write(pa, bytes)` of the reference collaborator: the descriptor it answers and its registers
after (D11). -/
def referenceWrite (dram cart : BitVec 32) (pa : Nat) (bytes : List Byte) :
    Option DmaDescriptor × Peripheral :=
  let v := wordOfWritten bytes
  if bytes.length = 4 ∧ pa = 0x04600000 then (none, .reference (v &&& 0x00FFFFFF#32) cart)
  else if bytes.length = 4 ∧ pa = 0x04600004 then (none, .reference dram v)
  else if bytes.length = 4 ∧ pa = 0x04600008 then
    (some { source := dram, destination := cart, length := transferLength v }, .reference dram cart)
  else if bytes.length = 4 ∧ pa = 0x0460000C then
    (some { source := cart, destination := dram, length := transferLength v }, .reference dram cart)
  else (none, .reference dram cart)

/-- `PI.read(pa, n)`: the bytes and the collaborator after the read (20_memory.md R95). -/
def Peripheral.read (p : Peripheral) (pa n : Nat) : List Byte × Peripheral :=
  match p with
  | .oracle draws => ((List.range n).map (Config.piReadByte draws pa n), .oracle (draws + 1))
  | .reference dram cart => (referenceRead dram cart pa n, .reference dram cart)

/-- `PI.write(pa, bytes)`: what the collaborator answers and the collaborator after the write
(20_memory.md R95). -/
def Peripheral.write (p : Peripheral) (pa : Nat) (bytes : List Byte) :
    Option DmaDescriptor × Peripheral :=
  match p with
  | .oracle draws => (Config.piWriteAnswer draws pa bytes, .oracle (draws + 1))
  | .reference dram cart => referenceWrite dram cart pa bytes

end Sys2Proof.Machine
end

