-- ==== Sys2Proof/Machine/Router.lean ====
section
/-! DEFINITION. The memory router (20_memory.md): translation, physical dispatch, DMA, and the word-level
primitives `Fetch`, `MemRead` and `MemWrite`, each with its checks in the order of R116. -/

namespace Sys2Proof.Machine

/-! ## Translation -/

/-- `Canon(va)`: the low half of an address that is the sign extension of a 32-bit one (20_memory.md R83). -/
def canon (va : EffAddr) : Option (BitVec 32) :=
  if va = (va.setWidth 32).signExtend 64 then some (va.setWidth 32) else none

/-- `Translate(va32, n)`: the physical address of an access of `n` bytes that lies in the uncached kernel
window, which starts at `KSEG1_BASE` (20_memory.md R84). DESIGN CHOICE (log 16) for a base that is not the
start of the segment, 0xA0000000: an address below a higher base translates to nothing, and under a lower base
the physical addresses reach beyond 0x1FFFFFFF, the bound of 10_state.md R64, which the default keeps. -/
def translate (cfg : Params) (va32 : BitVec 32) (n : Nat) : Option Nat :=
  if va32.extractLsb' 29 3 ≠ 0b101#3 then none
  else if va32.toNat + (n - 1) > Config.kseg1Last then none
  else if va32.toNat < cfg.kseg1Base.toNat then none
  else some (va32.toNat - cfg.kseg1Base.toNat)

/-- The physical address of an access, or `none`, which is `UnmappedSegment` (20_memory.md R80 to R85). -/
def physical (cfg : Params) (va : EffAddr) (n : Nat) : Option Nat := (canon va).bind (translate cfg · n)

/-! ## Physical dispatch -/

/-- A row of the dispatch table (20_memory.md R92). -/
inductive Row where
  | ram
  | sp
  | pi
  deriving DecidableEq, Repr

/-- The row that contains a physical address; of the RAM row, the part that RAM backs (20_memory.md R92,
R93, R96; log 16). -/
def rowOf (cfg : Params) (pa : Nat) : Option Row :=
  if pa < cfg.ramSize.val then some .ram
  else if Config.spBase ≤ pa ∧ pa ≤ Config.spLast then some .sp
  else if Config.piBase ≤ pa ∧ pa ≤ Config.piLast then some .pi
  else none

/-- The row of an access of `n` bytes: the whole access lies in it (20_memory.md R90). -/
def dispatch (cfg : Params) (pa n : Nat) : Option Row :=
  if rowOf cfg (pa + (n - 1)) = rowOf cfg pa then rowOf cfg pa else none

/-- Where a byte of a memory row is held: RAM at its address, a byte of the coprocessor row at its
address in the first copy of the pair (20_memory.md R93, R94). -/
def cellOf (pa : Nat) : Nat :=
  if Config.spBase ≤ pa then Config.spBase + (pa - Config.spBase) % Config.spMirror else pa

/-- The `n` bytes from a physical address of a memory row (20_memory.md R93, R94). -/
def readCells (m : Memory) (pa n : Nat) : List Byte := (List.range n).map fun i => m.get (cellOf (pa + i))

/-- Bytes stored from a physical address of a memory row on (20_memory.md R93, R94). -/
def writeCells (m : Memory) (pa : Nat) : List Byte → Memory
  | [] => m
  | b :: bs => writeCells (m.set (cellOf pa) b) (pa + 1) bs

/-- `PhysRead(pa, n)` (20_memory.md R90, R93 to R96). -/
def physRead (pa n : Nat) (s : State) : Access (List Byte) :=
  match dispatch s.cfg pa n with
  | some .ram => .ok (readCells s.mem pa n) s
  | some .sp => .ok (readCells s.mem pa n) s
  | some .pi => .ok (s.pi.read pa n).1 { s with pi := (s.pi.read pa n).2 }
  | none => .fatal (.memoryFault (.address pa)) s

/-- `PhysWrite(pa, bytes)` (20_memory.md R90, R93 to R96). -/
def physWrite (pa : Nat) (bytes : List Byte) (s : State) : Access (Option DmaDescriptor) :=
  match dispatch s.cfg pa bytes.length with
  | some .ram => .ok none { s with mem := writeCells s.mem pa bytes }
  | some .sp => .ok none { s with mem := writeCells s.mem pa bytes }
  | some .pi => .ok (s.pi.write pa bytes).1 { s with pi := (s.pi.write pa bytes).2 }
  | none => .fatal (.memoryFault (.address pa)) s

/-! ## DMA -/

/-- A DMA address in cartridge-ROM address space (10_state.md R65). -/
def isCartAddress (cfg : Params) (a : BitVec 32) : Bool := decide (cfg.cartRomBase.toNat ≤ a.toNat)

/-- The bytes of the cartridge a descriptor copies (20_memory.md R100). -/
def cartWindow (s : State) (d : DmaDescriptor) : List Byte :=
  (s.cart.drop (d.source.toNat - s.cfg.cartRomBase.toNat)).take d.length.toNat

/-- `RunDma`: both range checks come before the first byte (20_memory.md R100, R101). -/
def runDma (d : DmaDescriptor) (s : State) : Access Unit :=
  if isCartAddress s.cfg d.source && !isCartAddress s.cfg d.destination then
    if d.source.toNat - s.cfg.cartRomBase.toNat + d.length.toNat > s.cart.length then
      .fatal (.memoryFault .dmaCartRange) s
    else if d.destination.toNat + d.length.toNat > s.cfg.ramSize.val then
      .fatal (.memoryFault .dmaRamRange) s
    else .ok () { s with mem := s.mem.setBytes d.destination.toNat (cartWindow s d) }
  else if isCartAddress s.cfg d.destination && !isCartAddress s.cfg d.source then
    if d.source.toNat + d.length.toNat > s.cfg.ramSize.val then .fatal (.memoryFault .dmaRamRange) s
    else .ok () s
  else .fatal (.unsupportedFeature .dmaDirection) s

/-! ## The two entry points -/

/-- `RouterRead(va, n)` (20_memory.md R80). -/
def routerRead (va : EffAddr) (n : Nat) (s : State) : Access (List Byte) :=
  match physical s.cfg va n with
  | some pa => physRead pa n s
  | none => .fatal (.unsupportedFeature .unmappedSegment) s

/-- `RouterWrite(va, bytes)`; a DMA it completes runs before it returns (20_memory.md R81). -/
def routerWrite (va : EffAddr) (bytes : List Byte) (s : State) : Access Unit :=
  match physical s.cfg va bytes.length with
  | none => .fatal (.unsupportedFeature .unmappedSegment) s
  | some pa =>
    match physWrite pa bytes s with
    | .fatal f s' => .fatal f s'
    | .ok none s' => .ok () s'
    | .ok (some d) s' => runDma d s'

/-! ## Word-level primitives -/

/-- The address is a multiple of `n` (20_memory.md R108). -/
def isAligned (a : EffAddr) (n : Nat) : Bool := a.toNat % n == 0

/-- The instruction word of four fetched bytes, big-endian (20_memory.md R103). -/
def fetchedWord : List Byte → InstrWord
  | [b0, b1, b2, b3] => wordOfBytes b0 b1 b2 b3
  | bs => (loadValue .big bs).setWidth 32

/-- `Fetch(addr)` (20_memory.md R103). -/
def fetch (a : EffAddr) (s : State) : Access InstrWord :=
  if !isAligned a 4 then .fatal (.unsupportedFeature .unalignedAddress) s
  else match routerRead a 4 s with
    | .ok bs s' => .ok (fetchedWord bs) s'
    | .fatal f s' => .fatal f s'

/-- `MemRead(addr, n)` (20_memory.md R104). -/
def memRead (a : EffAddr) (n : Nat) (s : State) : Access Word :=
  if !isAligned a n then .fatal (.unsupportedFeature .unalignedAddress) s
  else match routerRead a n s with
    | .ok bs s' => .ok (loadValue s.cfg.loadByteOrder bs) s'
    | .fatal f s' => .fatal f s'

/-- `MemWrite(addr, n, v)` (20_memory.md R105). -/
def memWrite (a : EffAddr) (n : Nat) (v : Word) (s : State) : Access Unit :=
  if !isAligned a n then .fatal (.unsupportedFeature .unalignedAddress) s
  else routerWrite a (storeBytes v n) s

end Sys2Proof.Machine
end

