-- ==== Sys2Proof/Machine/Pipeline.lean ====
section
/-! DEFINITION. The basic-block finder and the lift pipeline (40_pipeline.md R192 to R199), and placing an
instruction where the next step runs it (log 9). -/

namespace Sys2Proof.Machine

/-- `IsCT(w)` (40_pipeline.md R193). -/
def isCT (w : InstrWord) : Bool :=
  ([0x02#6, 0x03#6, 0x04#6, 0x05#6, 0x06#6, 0x07#6, 0x14#6, 0x15#6, 0x16#6, 0x17#6].contains (fOp w))
    || (fOp w == 0x00#6 && [0x08#6, 0x09#6].contains (fFunct w))
    || (fOp w == 0x01#6
        && [0x00#5, 0x01#5, 0x02#5, 0x03#5, 0x10#5, 0x11#5, 0x12#5, 0x13#5].contains (fRtBits w))
    || (fOp w == 0x11#6 && fRsBits w == 0x08#5
        && [0x00#5, 0x01#5, 0x02#5, 0x03#5].contains (fRtBits w))

/-- The scan of `FindBlock(start)` from address `a`, `n` more words to examine (40_pipeline.md R195,
R197). -/
def scanBlock (start : Word) : Nat → Word → State → Access (List BlockEntry)
  | 0, _, s => .fatal (.unboundedBlock start) s
  | n + 1, a, s =>
    match fetch a s with
    | .fatal f s' => .fatal f s'
    | .ok w s' =>
      if isCT w then
        match fetch (toPc s.cfg (a + 4#64)) s' with
        | .fatal f s'' => .fatal f s''
        | .ok d s'' => .ok [⟨a, w⟩, ⟨toPc s.cfg (a + 4#64), d⟩] s''
      else
        match scanBlock start n (toPc s.cfg (a + 4#64)) s' with
        | .fatal f s'' => .fatal f s''
        | .ok rest s'' => .ok (⟨a, w⟩ :: rest) s''

/-- `FindBlock(start)` (40_pipeline.md R195). -/
def findBlock (start : Word) (s : State) : Access (List BlockEntry) :=
  scanBlock start s.cfg.blockScanLimit start s

/-- `Lift` of a block (40_pipeline.md R199). The buffer holds the words; a step lifts the one it executes
(log 2). -/
def lift (b : List BlockEntry) : List (Word × Decoded) := b.map fun e => (e.addr, decodeIr e.word)

/-- The step that forms the next block at the program counter (40_pipeline.md R190, R195, R208). -/
def formBlock (s : State) : State :=
  match findBlock s.pc s with
  | .ok b s' => { s' with block := b }
  | .fatal f s' => s'.halt f

/-! ## Placing an instruction (log 9) -/

/-- A program counter whose word, and the two words after it, can be fetched from a memory row. -/
def placeable (cfg : Params) (pc : PcWord) : Bool :=
  isAligned pc 4 &&
    match physical cfg pc 12 with
    | some pa => (dispatch cfg pa 12 == some .ram) || (dispatch cfg pa 12 == some .sp)
    | none => false

/-- `jr $31`, the control transfer that ends a block after a placed straight-line word. -/
def terminatorWord : InstrWord := 0x03E00008#32

/-- The words of the block that runs `w` first. -/
def placedWords (w : InstrWord) : List InstrWord :=
  if isCT w then [w, 0#32] else [w, terminatorWord, 0#32]

/-- The entries of consecutive words from an address on. -/
def entriesFrom (cfg : Params) (a : Word) : List InstrWord → List BlockEntry
  | [] => []
  | w :: ws => ⟨a, w⟩ :: entriesFrom cfg (toPc cfg (a + 4#64)) ws

/-- The words stored from the address `a` on, as fetched. -/
def storeWords (cfg : Params) (m : Memory) (a : Word) (ws : List InstrWord) : Memory :=
  match physical cfg a 4 with
  | some pa => writeCells m pa (ws.flatMap bytesOfWord)
  | none => m

/-- The state whose next step runs `w` at the program counter: `w` stands in memory there and in the
block buffer. In a delay slot, `w` is the delay slot. -/
def placeFetchWord (s : State) (w : InstrWord) : State :=
  match s.latch with
  | some _ =>
    { s with mem := storeWords s.cfg s.mem s.pc [w], block := [⟨s.pc, w⟩] }
  | none =>
    { s with mem := storeWords s.cfg s.mem s.pc (placedWords w)
             block := entriesFrom s.cfg s.pc (placedWords w) }

end Sys2Proof.Machine
end

