-- ==== Sys2Proof/Machine/Boot.lean ====
section
/-! DEFINITION. The boot sequencer and what the host does to the block (70_reset_and_hazards.md R510 to
R515; 60_exceptions.md R498). -/

namespace Sys2Proof.Machine

/-- Boot stage one (70_reset_and_hazards.md R512). -/
def bootStage1 (s : State) : State :=
  { (((s.writeC0 12 s.cfg.bootStatus).writeC0 16 s.cfg.bootConfig).writeX 29 s.cfg.bootSp) with
    phase := .boot1Done }

/-- Boot stage two (70_reset_and_hazards.md R513). -/
def bootStage2 (s : State) : State :=
  if s.cart.length < Config.bootCopyLen then s.halt .bootFailure
  else { s with mem := s.mem.setBytes Config.spBase (s.cart.take Config.bootCopyLen)
                pc := Config.bootEntryPc s.cfg.bootEntry
                phase := .running }

/-- Memory before boot: `INIT_RAM` as far as RAM reaches, `INIT_IMEM`, and zeros (10_state.md R71;
log 8). -/
def initMemory (cfg : Params) : Memory :=
  (Memory.setBytes [] (Config.spBase + Config.dmemSize) (cfg.initImem.take Config.dmemSize)).setBytes 0
    (cfg.initRam.take cfg.ramSize.val)

/-- Reset asserted by the host with a cartridge, a collaborator and parameters attached: the table of
10_state.md R71 (70_reset_and_hazards.md R510; log 3, log 4, log 5). -/
def hostReset (cart : List Byte) (pi : Peripheral) (cfg : Params) : State :=
  { State.reset with
    fcr0 := cfg.fcr0
    c0 := ((Vector.replicate 32 0#64).set 15 cfg.prid).set 16 Config.configConstant
    mem := initMemory cfg
    cart := cart
    pi := pi
    cfg := cfg }

/-- The host stops the block between two steps; a halted block stays halted (60_exceptions.md R471,
R498; log 14). -/
def hostStop (s : State) : State :=
  match s.phase with
  | .halted _ => s
  | .reset => { s with phase := .stopped }
  | .boot1Done => { s with phase := .stopped }
  | .running => { s with phase := .stopped }
  | .stopped => s

/-- The state in which the next step can run an instruction (log 9): where the boot stages have not run,
stage one runs and the program counter is the entry address; a running block whose program counter cannot
be fetched from a memory row goes to the entry address too. Halted and stopped blocks stay as they are. -/
def readyToRun (s : State) : State :=
  match s.phase with
  | .reset => { bootStage1 s with pc := Config.bootEntryPc s.cfg.bootEntry, phase := .running }
  | .boot1Done => { s with pc := Config.bootEntryPc s.cfg.bootEntry, phase := .running }
  | .running =>
    if placeable s.cfg s.pc || s.latch.isSome then s
    else { s with pc := Config.bootEntryPc s.cfg.bootEntry }
  | .halted _ => s
  | .stopped => s

end Sys2Proof.Machine
end

