-- ==== Sys2Proof/Machine/Flags.lean ====
section
/-! DEFINITION. What this machine has in place of flags (10_state.md R55): the overflow tests, the
conditions of branches and traps, and the comparisons that write a register. -/

namespace Sys2Proof.Machine

/-- `s32(v)` (42_alu_arith_logic.md R272). -/
def s32 (v : Word) : Int := (v.setWidth 32).toInt

/-- `s64(v)` (42_alu_arith_logic.md R272). -/
def s64 (v : Word) : Int := v.toInt

/-- `u32(v)` (43_alu_shift_muldiv.md R331). -/
def u32 (v : Word) : Nat := (v.setWidth 32).toNat

/-- `u64(v)` (42_alu_arith_logic.md R272). -/
def u64 (v : Word) : Nat := v.toNat

/-- The exact result of a 32-bit trapping operation, `none` where it does not fit
(42_alu_arith_logic.md R271, R272). -/
def trap32 (t : Int) : Option Word :=
  if t < -2 ^ 31 ∨ t > 2 ^ 31 - 1 then none else some (sext32 (BitVec.ofInt 64 t))

/-- The exact result of a 64-bit trapping operation, `none` where it does not fit
(42_alu_arith_logic.md R271, R272). -/
def trap64 (t : Int) : Option Word :=
  if t < -2 ^ 63 ∨ t > 2 ^ 63 - 1 then none else some (BitVec.ofInt 64 t)

/-- The 64-bit value 1 or 0 of a comparison (42_alu_arith_logic.md R272). -/
def boolWord (b : Bool) : Word := if b then 1#64 else 0#64

/-- `CC1`, the coprocessor-1 condition bit (30_encoding.md R141; 44_control_flow.md R371). -/
def State.cc1 (s : State) : Bool := fcsrC s.fcsr

/-- `Cond`: whether a branch is taken (44_control_flow.md R371). -/
def State.holds (s : State) : Cond → Bool
  | .always => true
  | .copTrue => s.cc1
  | .copFalse => !s.cc1
  | .eq a b => s.readX a == s.readX b
  | .ne a b => s.readX a != s.readX b
  | .ltz a => decide (s64 (s.readX a) < 0)
  | .gez a => decide (0 ≤ s64 (s.readX a))
  | .lez a => decide (s64 (s.readX a) ≤ 0)
  | .gtz a => decide (0 < s64 (s.readX a))

/-- The condition reads coprocessor 1, which `Status.CU1` guards (44_control_flow.md R370). -/
def condIsCop1 : Cond → Bool
  | .copTrue => true
  | .copFalse => true
  | .always => false
  | .eq _ _ => false
  | .ne _ _ => false
  | .ltz _ => false
  | .gez _ => false
  | .lez _ => false
  | .gtz _ => false

/-- `TrapCond` (46_system.md R434). -/
def trapHolds (c : TrapCond) (p q : Word) : Bool :=
  match c with
  | .ge => decide (s64 q ≤ s64 p)
  | .geu => decide (u64 q ≤ u64 p)
  | .lt => decide (s64 p < s64 q)
  | .ltu => decide (u64 p < u64 q)
  | .eq => p == q
  | .ne => p != q

/-- `Target`: where a control transfer at the program counter goes (44_control_flow.md R372 to R374). -/
def State.target (s : State) : Target → Word
  | .rel o => s.pc + Config.branchRelBase s.cfg.branchBase + o
  | .abs index => (s.pc + 4#64).extractLsb' 28 36 ++ index ++ 0#2
  | .inReg i => s.readX i

end Sys2Proof.Machine
end

