-- ==== Sys2Proof/Machine/Compute.lean ====
section
/-! DEFINITION. `Compute`: the value of every ALU kind (42_alu_arith_logic.md R272;
43_alu_shift_muldiv.md R330 to R333). -/

namespace Sys2Proof.Machine

/-- A 32-bit result, sign-extended. -/
def word32 (v : BitVec 32) : Word := v.signExtend 64

/-- The low 32 bits. -/
def low32 (v : Word) : BitVec 32 := v.setWidth 32

/-- `Compute` of a kind that yields one value; `none` means `raise Ov` (42_alu_arith_logic.md R272;
43_alu_shift_muldiv.md R330, R333). -/
def computeAlu (kind : AluKind) (a b : Word) : Option Word :=
  match kind with
  | .add32T => trap32 (s32 a + s32 b)
  | .add32 => some (sext32 (a + b))
  | .sub32T => trap32 (s32 a - s32 b)
  | .sub32 => some (sext32 (a - b))
  | .add64T => trap64 (s64 a + s64 b)
  | .add64 => some (a + b)
  | .sub64T => trap64 (s64 a - s64 b)
  | .sub64 => some (a - b)
  | .and => some (a &&& b)
  | .or => some (a ||| b)
  | .xor => some (a ^^^ b)
  | .nor => some (~~~(a ||| b))
  | .slt => some (boolWord (decide (s64 a < s64 b)))
  | .sltu => some (boolWord (decide (u64 a < u64 b)))
  | .sll32 => some (word32 (low32 a <<< (b.setWidth 5).toNat))
  | .srl32 => some (word32 (low32 a >>> (b.setWidth 5).toNat))
  | .sra32 => some (word32 ((low32 a).sshiftRight (b.setWidth 5).toNat))
  | .sll64 => some (a <<< (b.setWidth 6).toNat)
  | .srl64 => some (a >>> (b.setWidth 6).toNat)
  | .sra64 => some (a.sshiftRight (b.setWidth 6).toNat)
  | .copy => some b

/-- `(HI, LO)` of a 64-bit product: both halves sign-extended from 32 bits (43_alu_shift_muldiv.md R331). -/
def product32 (p : Word) : Word × Word := (sext32 (p >>> 32), sext32 p)

/-- `(HI, LO)` of a 128-bit product (43_alu_shift_muldiv.md R331). -/
def product64 (p : BitVec 128) : Word × Word := (p.extractLsb' 64 64, p.extractLsb' 0 64)

/-- `(HI, LO)` of a 32-bit division from its remainder and quotient (43_alu_shift_muldiv.md R331). -/
def division32 (rem quot : Int) : Word × Word :=
  (sext32 (BitVec.ofInt 64 rem), sext32 (BitVec.ofInt 64 quot))

/-- `(HI, LO)` of a 64-bit division from its remainder and quotient (43_alu_shift_muldiv.md R331). -/
def division64 (rem quot : Int) : Word × Word := (BitVec.ofInt 64 rem, BitVec.ofInt 64 quot)

/-- `LO` of a signed division by zero: -1 for a dividend that is not negative, else 1
(43_alu_shift_muldiv.md R332). -/
def signedZeroQuotient (a : Int) : Word := if 0 ≤ a then 0xFFFFFFFFFFFFFFFF#64 else 1#64

/-- `DIV_ZERO(kind, a)`, the pair `(HI, LO)` (43_alu_shift_muldiv.md R332; log 6). The table has no row
for a multiply kind, which `computeMulDiv` never asks for. -/
def divideByZero (c : DivCorner) (kind : MulDivKind) (a : Word) : Word × Word :=
  match c with
  | .free => Config.divZero kind a
  | .table =>
    match kind with
    | .div32 => (sext32 a, signedZeroQuotient (s32 a))
    | .divu32 => (sext32 a, 0xFFFFFFFFFFFFFFFF#64)
    | .div64 => (a, signedZeroQuotient (s64 a))
    | .divu64 => (a, 0xFFFFFFFFFFFFFFFF#64)
    | .mult32 => Config.divZero .mult32 a
    | .multu32 => Config.divZero .multu32 a
    | .mult64 => Config.divZero .mult64 a
    | .multu64 => Config.divZero .multu64 a

/-- `DIV_OVF(kind)`, the pair `(HI, LO)` (43_alu_shift_muldiv.md R332; log 6). The table has rows for the
signed divisions only, and `computeMulDiv` asks for no other. -/
def divideOverflow (c : DivCorner) (kind : MulDivKind) : Word × Word :=
  match c with
  | .free => Config.divOvf kind
  | .table =>
    match kind with
    | .div32 => (0#64, 0xFFFFFFFF80000000#64)
    | .div64 => (0#64, 0x8000000000000000#64)
    | .divu32 => Config.divOvf .divu32
    | .divu64 => Config.divOvf .divu64
    | .mult32 => Config.divOvf .mult32
    | .multu32 => Config.divOvf .multu32
    | .mult64 => Config.divOvf .mult64
    | .multu64 => Config.divOvf .multu64

/-- `Compute` of a multiply or divide kind: the pair `(HI, LO)` (43_alu_shift_muldiv.md R331, R332). -/
def computeMulDiv (c : DivCorner) (kind : MulDivKind) (a b : Word) : Word × Word :=
  match kind with
  | .mult32 => product32 (BitVec.ofInt 64 (s32 a * s32 b))
  | .multu32 => product32 (BitVec.ofNat 64 (u32 a * u32 b))
  | .div32 =>
    if s32 b = 0 then divideByZero c .div32 a
    else if s32 a = -2 ^ 31 ∧ s32 b = -1 then divideOverflow c .div32
    else division32 ((s32 a).tmod (s32 b)) ((s32 a).tdiv (s32 b))
  | .divu32 =>
    if u32 b = 0 then divideByZero c .divu32 a
    else division32 (u32 a % u32 b : Nat) (u32 a / u32 b : Nat)
  | .mult64 => product64 (BitVec.ofInt 128 (s64 a * s64 b))
  | .multu64 => product64 (BitVec.ofNat 128 (u64 a * u64 b))
  | .div64 =>
    if s64 b = 0 then divideByZero c .div64 a
    else if s64 a = -2 ^ 63 ∧ s64 b = -1 then divideOverflow c .div64
    else division64 ((s64 a).tmod (s64 b)) ((s64 a).tdiv (s64 b))
  | .divu64 =>
    if u64 b = 0 then divideByZero c .divu64 a
    else division64 (u64 a % u64 b : Nat) (u64 a / u64 b : Nat)

end Sys2Proof.Machine
end

