-- ==== Sys2Proof/Machine/Engine.lean ====
section
/-! DEFINITION. The execution engine: the contract of each IR variant (40_pipeline.md R200 to R210), which
every instruction's meaning is a use of. -/

namespace Sys2Proof.Machine

/-- `ExecLoad` (41_load_store.md R220). -/
def runLoad (op : LoadOp) (s : State) : Result :=
  if !op.aligned then .fatal (.unsupportedFeature .unalignedForm) s
  else if op.conditional then .fatal (.unsupportedFeature .loadLinked) s
  else if dataRegIsCop1 op.dest && !s.cu1 then raise .cpu 1#2 s
  else match op.source with
    | .based b offset =>
      match memRead (s.effAddr b offset) (bytesOf op.width.bits) s with
      | .ok v s' => .done (s'.writeData op.dest op.width v)
      | .fatal f s' => .fatal f s'
    | .immediate v => .done (s.writeData op.dest op.width (v.setWidth 64))

/-- `ExecStore` (41_load_store.md R221). -/
def runStore (op : StoreOp) (s : State) : Result :=
  if !op.aligned then .fatal (.unsupportedFeature .unalignedForm) s
  else if op.conditional then .fatal (.unsupportedFeature .storeConditional) s
  else if dataRegIsCop1 op.source && !s.cu1 then raise .cpu 1#2 s
  else match memWrite (s.effAddr op.base op.offset) (bytesOf op.width.bits) (s.readData op.source) s with
    | .ok () s' => .done s'
    | .fatal f s' => .fatal f s'

/-- `ExecALU` of a kind that yields one value (42_alu_arith_logic.md R270, R271). -/
def runAlu (op : AluOp) (s : State) : Result :=
  match computeAlu op.kind (s.optionalOperand op.src1) (s.operand op.src2) with
  | some r => .done (s.writeAlu op.dest r)
  | none => raise .ov 0#2 s

/-- `ExecALU` of a multiply or divide kind (42_alu_arith_logic.md R270; 43_alu_shift_muldiv.md R331). -/
def runMulDiv (op : MulDivOp) (s : State) : Result :=
  let r := computeMulDiv s.cfg.divCorner op.kind (s.operand op.src1) (s.operand op.src2)
  .done { s with hi := r.1, lo := r.2 }

/-- `ExecMove` (45_move.md R410, R411). -/
def runMove (op : MoveOp) (s : State) : Result :=
  match op with
  | .fromCop src dest =>
    if copRegIsCop1 src && !s.cu1 then raise .cpu 1#2 s
    else match s.readCop src with
      | some v => .done (s.writeX dest v)
      | none => .fatal (.unsupportedFeature .fcrIndex) s
  | .toCop src dest =>
    if copRegIsCop1 dest && !s.cu1 then raise .cpu 1#2 s
    else match s.writeCop dest (s.readX src) with
      | some s' => .done s'
      | none => .fatal (.unsupportedFeature .fcrIndex) s

/-- The System operations (46_system.md R428 to R454); `ERET` in a delay slot is fatal before it executes
(40_pipeline.md R209). -/
def runSystem (op : SystemOp) (s : State) : Result :=
  match op with
  | .cache _ _ _ => .done s
  | .syscall _ => raise .sys 0#2 s
  | .brk _ => raise .bp 0#2 s
  | .sync => .done s
  | .trap c a b => if trapHolds c (s.readX a) (s.operand b) then raise .tr 0#2 s else .done s
  | .tlbr => .fatal (.unsupportedFeature .tlb) s
  | .tlbwi => .fatal (.unsupportedFeature .tlb) s
  | .tlbwr => .fatal (.unsupportedFeature .tlb) s
  | .tlbp => .fatal (.unsupportedFeature .tlb) s
  | .eret =>
    if s.latch.isSome then .fatal (.unsupportedFeature .delaySlotTransfer) s
    else .redirected s.returnFromException

/-- Executing `Malformed` (46_system.md R456). -/
def runMalformed (s : State) : Result := raise .ri 0#2 s

/-- Executing `Unimplemented(class)` (46_system.md R457). -/
def runUnimplemented (cls : UnimplClass) (s : State) : Result :=
  .fatal (.unsupportedFeature (.unimplementedOpcode cls)) s

/-- The link write of a control transfer (44_control_flow.md R375). -/
def State.writeLink (s : State) (link : Option RegIdx) : State :=
  match link with
  | some i => s.writeX i (toPc s.cfg (s.pc + 8#64))
  | none => s

/-- After a control-transfer step whose delay slot will execute: the program counter is at the delay slot
and the latch holds the outcome (40_pipeline.md R201, R204). -/
def State.enterDelaySlot (s : State) (taken : Bool) (target : Word) : State :=
  { s with pc := toPc s.cfg (s.pc + 4#64), block := s.block.tail,
           latch := some { taken := taken, target := target, ctAddr := s.pc } }

/-- After a likely branch that is not taken: its delay slot is not executed and the block ends
(40_pipeline.md R205). -/
def State.nullifyDelaySlot (s : State) : State :=
  { s with pc := toPc s.cfg (s.pc + 8#64), block := [], latch := none }

/-- The state after a control-transfer step that raises nothing (40_pipeline.md R201, R204, R205;
44_control_flow.md R370): every operand is read before the link is written. -/
def State.afterTransfer (s : State) (op : CfOp) : State :=
  if op.likely && !s.holds op.condition then (s.writeLink op.link).nullifyDelaySlot
  else (s.writeLink op.link).enterDelaySlot (s.holds op.condition) (s.target op.destination)

/-- `ExecCF` (44_control_flow.md R370; 40_pipeline.md R204); a control transfer in a delay slot is fatal
before it executes (40_pipeline.md R209). -/
def runControlFlow (op : CfOp) (s : State) : Host.Outcome State Fault Refusal :=
  if s.latch.isSome then finish (.fatal (.unsupportedFeature .delaySlotTransfer) s)
  else if condIsCop1 op.condition && !s.cu1 then finish (raise .cpu 1#2 s)
  else .next (s.afterTransfer op)

/-- `Exec`: one step of the engine on an IR operation or the marker `Unimplemented` (40_pipeline.md R200,
R201). -/
def execIr (d : Decoded) (s : State) : Host.Outcome State Fault Refusal :=
  match d with
  | .op (.load op) => finish (runLoad op s)
  | .op (.store op) => finish (runStore op s)
  | .op (.alu op) => finish (runAlu op s)
  | .op (.mulDiv op) => finish (runMulDiv op s)
  | .op (.controlFlow op) => runControlFlow op s
  | .op (.move op) => finish (runMove op s)
  | .op (.system op) => finish (runSystem op s)
  | .op .malformed => finish (runMalformed s)
  | .unimplemented cls => finish (runUnimplemented cls s)

end Sys2Proof.Machine
end

