-- ==== Sys2Proof/Machine/AluArith.lean ====
section
/-! DEFINITION. Additive, logical and compare instructions (42_alu_arith_logic.md):
one meaning for each instruction, a use of the engine's contract of its IR variant. -/

namespace Sys2Proof.Machine

/-- `ADDI` (R275): s32(x[rs]) + sext_16(imm), raise Ov where it does not fit. -/
def execAddi (rs : RegIdx) (rt : RegIdx) (imm : BitVec 16) (s : State) :
    Host.Outcome State Fault Refusal :=
  finish (runAlu (aluImmOp .add32T rt rs (sextImm imm)) s)

/-- `ADDIU` (R276): x[rt] <- sext_32(x[rs] + sext_16(imm)). -/
def execAddiu (rs : RegIdx) (rt : RegIdx) (imm : BitVec 16) (s : State) :
    Host.Outcome State Fault Refusal :=
  finish (runAlu (aluImmOp .add32 rt rs (sextImm imm)) s)

/-- `SLTI` (R277): x[rt] <- s64(x[rs]) < sext_16(imm). -/
def execSlti (rs : RegIdx) (rt : RegIdx) (imm : BitVec 16) (s : State) :
    Host.Outcome State Fault Refusal :=
  finish (runAlu (aluImmOp .slt rt rs (sextImm imm)) s)

/-- `SLTIU` (R278): x[rt] <- u64(x[rs]) < u64(sext_16(imm)). -/
def execSltiu (rs : RegIdx) (rt : RegIdx) (imm : BitVec 16) (s : State) :
    Host.Outcome State Fault Refusal :=
  finish (runAlu (aluImmOp .sltu rt rs (sextImm imm)) s)

/-- `ANDI` (R279): x[rt] <- x[rs] & zext_16(imm). -/
def execAndi (rs : RegIdx) (rt : RegIdx) (imm : BitVec 16) (s : State) :
    Host.Outcome State Fault Refusal :=
  finish (runAlu (aluImmOp .and rt rs (zextImm imm)) s)

/-- `ORI` (R280): x[rt] <- x[rs] | zext_16(imm). -/
def execOri (rs : RegIdx) (rt : RegIdx) (imm : BitVec 16) (s : State) :
    Host.Outcome State Fault Refusal :=
  finish (runAlu (aluImmOp .or rt rs (zextImm imm)) s)

/-- `XORI` (R281): x[rt] <- x[rs] ^ zext_16(imm). -/
def execXori (rs : RegIdx) (rt : RegIdx) (imm : BitVec 16) (s : State) :
    Host.Outcome State Fault Refusal :=
  finish (runAlu (aluImmOp .xor rt rs (zextImm imm)) s)

/-- `DADDI` (R282): s64(x[rs]) + sext_16(imm), raise Ov where it does not fit. -/
def execDaddi (rs : RegIdx) (rt : RegIdx) (imm : BitVec 16) (s : State) :
    Host.Outcome State Fault Refusal :=
  finish (runAlu (aluImmOp .add64T rt rs (sextImm imm)) s)

/-- `DADDIU` (R283): x[rt] <- x[rs] + sext_16(imm). -/
def execDaddiu (rs : RegIdx) (rt : RegIdx) (imm : BitVec 16) (s : State) :
    Host.Outcome State Fault Refusal :=
  finish (runAlu (aluImmOp .add64 rt rs (sextImm imm)) s)

/-- `ADD` (R284): s32(x[rs]) + s32(x[rt]), raise Ov where it does not fit. -/
def execAdd (rs : RegIdx) (rt : RegIdx) (rd : RegIdx) (s : State) :
    Host.Outcome State Fault Refusal :=
  finish (runAlu (aluRegOp .add32T rd rs rt) s)

/-- `ADDU` (R285): x[rd] <- sext_32(x[rs] + x[rt]). -/
def execAddu (rs : RegIdx) (rt : RegIdx) (rd : RegIdx) (s : State) :
    Host.Outcome State Fault Refusal :=
  finish (runAlu (aluRegOp .add32 rd rs rt) s)

/-- `SUB` (R286): s32(x[rs]) - s32(x[rt]), raise Ov where it does not fit. -/
def execSub (rs : RegIdx) (rt : RegIdx) (rd : RegIdx) (s : State) :
    Host.Outcome State Fault Refusal :=
  finish (runAlu (aluRegOp .sub32T rd rs rt) s)

/-- `SUBU` (R287): x[rd] <- sext_32(x[rs] - x[rt]). -/
def execSubu (rs : RegIdx) (rt : RegIdx) (rd : RegIdx) (s : State) :
    Host.Outcome State Fault Refusal :=
  finish (runAlu (aluRegOp .sub32 rd rs rt) s)

/-- `AND` (R288): x[rd] <- x[rs] & x[rt]. -/
def execAnd (rs : RegIdx) (rt : RegIdx) (rd : RegIdx) (s : State) :
    Host.Outcome State Fault Refusal :=
  finish (runAlu (aluRegOp .and rd rs rt) s)

/-- `OR` (R289): x[rd] <- x[rs] | x[rt]. -/
def execOr (rs : RegIdx) (rt : RegIdx) (rd : RegIdx) (s : State) :
    Host.Outcome State Fault Refusal :=
  finish (runAlu (aluRegOp .or rd rs rt) s)

/-- `XOR` (R290): x[rd] <- x[rs] ^ x[rt]. -/
def execXor (rs : RegIdx) (rt : RegIdx) (rd : RegIdx) (s : State) :
    Host.Outcome State Fault Refusal :=
  finish (runAlu (aluRegOp .xor rd rs rt) s)

/-- `NOR` (R291): x[rd] <- ~(x[rs] | x[rt]). -/
def execNor (rs : RegIdx) (rt : RegIdx) (rd : RegIdx) (s : State) :
    Host.Outcome State Fault Refusal :=
  finish (runAlu (aluRegOp .nor rd rs rt) s)

/-- `SLT` (R292): x[rd] <- s64(x[rs]) < s64(x[rt]). -/
def execSlt (rs : RegIdx) (rt : RegIdx) (rd : RegIdx) (s : State) :
    Host.Outcome State Fault Refusal :=
  finish (runAlu (aluRegOp .slt rd rs rt) s)

/-- `SLTU` (R293): x[rd] <- u64(x[rs]) < u64(x[rt]). -/
def execSltu (rs : RegIdx) (rt : RegIdx) (rd : RegIdx) (s : State) :
    Host.Outcome State Fault Refusal :=
  finish (runAlu (aluRegOp .sltu rd rs rt) s)

/-- `DADD` (R294): s64(x[rs]) + s64(x[rt]), raise Ov where it does not fit. -/
def execDadd (rs : RegIdx) (rt : RegIdx) (rd : RegIdx) (s : State) :
    Host.Outcome State Fault Refusal :=
  finish (runAlu (aluRegOp .add64T rd rs rt) s)

/-- `DADDU` (R295): x[rd] <- x[rs] + x[rt]. -/
def execDaddu (rs : RegIdx) (rt : RegIdx) (rd : RegIdx) (s : State) :
    Host.Outcome State Fault Refusal :=
  finish (runAlu (aluRegOp .add64 rd rs rt) s)

/-- `DSUB` (R296): s64(x[rs]) - s64(x[rt]), raise Ov where it does not fit. -/
def execDsub (rs : RegIdx) (rt : RegIdx) (rd : RegIdx) (s : State) :
    Host.Outcome State Fault Refusal :=
  finish (runAlu (aluRegOp .sub64T rd rs rt) s)

/-- `DSUBU` (R297): x[rd] <- x[rs] - x[rt]. -/
def execDsubu (rs : RegIdx) (rt : RegIdx) (rd : RegIdx) (s : State) :
    Host.Outcome State Fault Refusal :=
  finish (runAlu (aluRegOp .sub64 rd rs rt) s)

end Sys2Proof.Machine
end

