-- ==== Sys2Proof/Machine/AluShift.lean ====
section
/-! DEFINITION. Shifts, multiply and divide, HI and LO transfers (43_alu_shift_muldiv.md):
one meaning for each instruction, a use of the engine's contract of its IR variant. -/

namespace Sys2Proof.Machine

/-- `SLL` (R335): x[rd] <- sext_32(x[rt][31:0] << sa). -/
def execSll (rt : RegIdx) (rd : RegIdx) (sa : BitVec 5) (s : State) :
    Host.Outcome State Fault Refusal :=
  finish (runAlu (shiftOp .sll32 rd rt (shiftLow sa)) s)

/-- `SRL` (R336): x[rd] <- sext_32(x[rt][31:0] >>u sa). -/
def execSrl (rt : RegIdx) (rd : RegIdx) (sa : BitVec 5) (s : State) :
    Host.Outcome State Fault Refusal :=
  finish (runAlu (shiftOp .srl32 rd rt (shiftLow sa)) s)

/-- `SRA` (R337): x[rd] <- sext_32(x[rt][31:0] >>s sa). -/
def execSra (rt : RegIdx) (rd : RegIdx) (sa : BitVec 5) (s : State) :
    Host.Outcome State Fault Refusal :=
  finish (runAlu (shiftOp .sra32 rd rt (shiftLow sa)) s)

/-- `DSLL` (R341): x[rd] <- x[rt] << sa. -/
def execDsll (rt : RegIdx) (rd : RegIdx) (sa : BitVec 5) (s : State) :
    Host.Outcome State Fault Refusal :=
  finish (runAlu (shiftOp .sll64 rd rt (shiftLow sa)) s)

/-- `DSRL` (R342): x[rd] <- x[rt] >>u sa. -/
def execDsrl (rt : RegIdx) (rd : RegIdx) (sa : BitVec 5) (s : State) :
    Host.Outcome State Fault Refusal :=
  finish (runAlu (shiftOp .srl64 rd rt (shiftLow sa)) s)

/-- `DSRA` (R343): x[rd] <- x[rt] >>s sa. -/
def execDsra (rt : RegIdx) (rd : RegIdx) (sa : BitVec 5) (s : State) :
    Host.Outcome State Fault Refusal :=
  finish (runAlu (shiftOp .sra64 rd rt (shiftLow sa)) s)

/-- `DSLL32` (R344): x[rd] <- x[rt] << (sa + 32). -/
def execDsll32 (rt : RegIdx) (rd : RegIdx) (sa : BitVec 5) (s : State) :
    Host.Outcome State Fault Refusal :=
  finish (runAlu (shiftOp .sll64 rd rt (shiftHigh sa)) s)

/-- `DSRL32` (R345): x[rd] <- x[rt] >>u (sa + 32). -/
def execDsrl32 (rt : RegIdx) (rd : RegIdx) (sa : BitVec 5) (s : State) :
    Host.Outcome State Fault Refusal :=
  finish (runAlu (shiftOp .srl64 rd rt (shiftHigh sa)) s)

/-- `DSRA32` (R346): x[rd] <- x[rt] >>s (sa + 32). -/
def execDsra32 (rt : RegIdx) (rd : RegIdx) (sa : BitVec 5) (s : State) :
    Host.Outcome State Fault Refusal :=
  finish (runAlu (shiftOp .sra64 rd rt (shiftHigh sa)) s)

/-- `SLLV` (R338): x[rd] <- sext_32(x[rt][31:0] << x[rs][4:0]). -/
def execSllv (rs : RegIdx) (rt : RegIdx) (rd : RegIdx) (s : State) :
    Host.Outcome State Fault Refusal :=
  finish (runAlu (aluRegOp .sll32 rd rt rs) s)

/-- `SRLV` (R339): x[rd] <- sext_32(x[rt][31:0] >>u x[rs][4:0]). -/
def execSrlv (rs : RegIdx) (rt : RegIdx) (rd : RegIdx) (s : State) :
    Host.Outcome State Fault Refusal :=
  finish (runAlu (aluRegOp .srl32 rd rt rs) s)

/-- `SRAV` (R340): x[rd] <- sext_32(x[rt][31:0] >>s x[rs][4:0]). -/
def execSrav (rs : RegIdx) (rt : RegIdx) (rd : RegIdx) (s : State) :
    Host.Outcome State Fault Refusal :=
  finish (runAlu (aluRegOp .sra32 rd rt rs) s)

/-- `DSLLV` (R347): x[rd] <- x[rt] << x[rs][5:0]. -/
def execDsllv (rs : RegIdx) (rt : RegIdx) (rd : RegIdx) (s : State) :
    Host.Outcome State Fault Refusal :=
  finish (runAlu (aluRegOp .sll64 rd rt rs) s)

/-- `DSRLV` (R348): x[rd] <- x[rt] >>u x[rs][5:0]. -/
def execDsrlv (rs : RegIdx) (rt : RegIdx) (rd : RegIdx) (s : State) :
    Host.Outcome State Fault Refusal :=
  finish (runAlu (aluRegOp .srl64 rd rt rs) s)

/-- `DSRAV` (R349): x[rd] <- x[rt] >>s x[rs][5:0]. -/
def execDsrav (rs : RegIdx) (rt : RegIdx) (rd : RegIdx) (s : State) :
    Host.Outcome State Fault Refusal :=
  finish (runAlu (aluRegOp .sra64 rd rt rs) s)

/-- `MULT` (R350): (HI, LO) <- s32(x[rs]) * s32(x[rt]). -/
def execMult (rs : RegIdx) (rt : RegIdx) (s : State) : Host.Outcome State Fault Refusal :=
  finish (runMulDiv (mulDivOp .mult32 rs rt) s)

/-- `MULTU` (R351): (HI, LO) <- u32(x[rs]) * u32(x[rt]). -/
def execMultu (rs : RegIdx) (rt : RegIdx) (s : State) : Host.Outcome State Fault Refusal :=
  finish (runMulDiv (mulDivOp .multu32 rs rt) s)

/-- `DIV` (R352): LO, HI <- quotient and remainder of s32(x[rs]) by s32(x[rt]). -/
def execDiv (rs : RegIdx) (rt : RegIdx) (s : State) : Host.Outcome State Fault Refusal :=
  finish (runMulDiv (mulDivOp .div32 rs rt) s)

/-- `DIVU` (R353): LO, HI <- quotient and remainder of u32(x[rs]) by u32(x[rt]). -/
def execDivu (rs : RegIdx) (rt : RegIdx) (s : State) : Host.Outcome State Fault Refusal :=
  finish (runMulDiv (mulDivOp .divu32 rs rt) s)

/-- `DMULT` (R354): (HI, LO) <- s64(x[rs]) * s64(x[rt]). -/
def execDmult (rs : RegIdx) (rt : RegIdx) (s : State) : Host.Outcome State Fault Refusal :=
  finish (runMulDiv (mulDivOp .mult64 rs rt) s)

/-- `DMULTU` (R355): (HI, LO) <- u64(x[rs]) * u64(x[rt]). -/
def execDmultu (rs : RegIdx) (rt : RegIdx) (s : State) : Host.Outcome State Fault Refusal :=
  finish (runMulDiv (mulDivOp .multu64 rs rt) s)

/-- `DDIV` (R356): LO, HI <- quotient and remainder of s64(x[rs]) by s64(x[rt]). -/
def execDdiv (rs : RegIdx) (rt : RegIdx) (s : State) : Host.Outcome State Fault Refusal :=
  finish (runMulDiv (mulDivOp .div64 rs rt) s)

/-- `DDIVU` (R357): LO, HI <- quotient and remainder of u64(x[rs]) by u64(x[rt]). -/
def execDdivu (rs : RegIdx) (rt : RegIdx) (s : State) : Host.Outcome State Fault Refusal :=
  finish (runMulDiv (mulDivOp .divu64 rs rt) s)

/-- `MFHI` (R358): x[rd] <- HI. -/
def execMfhi (rd : RegIdx) (s : State) : Host.Outcome State Fault Refusal :=
  finish (runAlu (copyOp (.g rd) .hi) s)

/-- `MFLO` (R360): x[rd] <- LO. -/
def execMflo (rd : RegIdx) (s : State) : Host.Outcome State Fault Refusal :=
  finish (runAlu (copyOp (.g rd) .lo) s)

/-- `MTHI` (R359): HI <- x[rs]. -/
def execMthi (rs : RegIdx) (s : State) : Host.Outcome State Fault Refusal :=
  finish (runAlu (copyOp .hi (.reg rs)) s)

/-- `MTLO` (R361): LO <- x[rs]. -/
def execMtlo (rs : RegIdx) (s : State) : Host.Outcome State Fault Refusal :=
  finish (runAlu (copyOp .lo (.reg rs)) s)

end Sys2Proof.Machine
end

