-- ==== Sys2Proof/Machine/ControlFlow.lean ====
section
/-! DEFINITION. Control transfers (44_control_flow.md):
one meaning for each instruction, a use of the engine's contract of its IR variant. -/

namespace Sys2Proof.Machine

/-- `BEQ` (R380): taken when x[rs] = x[rt]. -/
def execBeq (rs : RegIdx) (rt : RegIdx) (imm : BitVec 16) (s : State) :
    Host.Outcome State Fault Refusal :=
  runControlFlow (branchOp (.eq rs rt) imm false none) s

/-- `BNE` (R381): taken when x[rs] != x[rt]. -/
def execBne (rs : RegIdx) (rt : RegIdx) (imm : BitVec 16) (s : State) :
    Host.Outcome State Fault Refusal :=
  runControlFlow (branchOp (.ne rs rt) imm false none) s

/-- `BEQL` (R384): taken when x[rs] = x[rt]; likely. -/
def execBeql (rs : RegIdx) (rt : RegIdx) (imm : BitVec 16) (s : State) :
    Host.Outcome State Fault Refusal :=
  runControlFlow (branchOp (.eq rs rt) imm true none) s

/-- `BNEL` (R385): taken when x[rs] != x[rt]; likely. -/
def execBnel (rs : RegIdx) (rt : RegIdx) (imm : BitVec 16) (s : State) :
    Host.Outcome State Fault Refusal :=
  runControlFlow (branchOp (.ne rs rt) imm true none) s

/-- `BLEZ` (R382): taken when s64(x[rs]) <= 0. -/
def execBlez (rs : RegIdx) (imm : BitVec 16) (s : State) : Host.Outcome State Fault Refusal :=
  runControlFlow (branchOp (.lez rs) imm false none) s

/-- `BGTZ` (R383): taken when s64(x[rs]) > 0. -/
def execBgtz (rs : RegIdx) (imm : BitVec 16) (s : State) : Host.Outcome State Fault Refusal :=
  runControlFlow (branchOp (.gtz rs) imm false none) s

/-- `BLEZL` (R386): taken when s64(x[rs]) <= 0; likely. -/
def execBlezl (rs : RegIdx) (imm : BitVec 16) (s : State) : Host.Outcome State Fault Refusal :=
  runControlFlow (branchOp (.lez rs) imm true none) s

/-- `BGTZL` (R387): taken when s64(x[rs]) > 0; likely. -/
def execBgtzl (rs : RegIdx) (imm : BitVec 16) (s : State) : Host.Outcome State Fault Refusal :=
  runControlFlow (branchOp (.gtz rs) imm true none) s

/-- `J` (R376): target (c + 4)[63:28] || index || 00. -/
def execJ (index : BitVec 26) (s : State) : Host.Outcome State Fault Refusal :=
  runControlFlow (jumpOp (.abs index) none) s

/-- `JAL` (R377): x[31] <- c + 8; target (c + 4)[63:28] || index || 00. -/
def execJal (index : BitVec 26) (s : State) : Host.Outcome State Fault Refusal :=
  runControlFlow (jumpOp (.abs index) (some 31)) s

/-- `JR` (R378): target x[rs]. -/
def execJr (rs : RegIdx) (s : State) : Host.Outcome State Fault Refusal :=
  runControlFlow (jumpOp (.inReg rs) none) s

/-- `JALR` (R379): target x[rs], read before x[rd] <- c + 8. -/
def execJalr (rs : RegIdx) (rd : RegIdx) (s : State) : Host.Outcome State Fault Refusal :=
  runControlFlow (jumpOp (.inReg rs) (some rd)) s

/-- `BLTZ` (R388): taken when s64(x[rs]) < 0. -/
def execBltz (rs : RegIdx) (imm : BitVec 16) (s : State) : Host.Outcome State Fault Refusal :=
  runControlFlow (branchOp (.ltz rs) imm false none) s

/-- `BGEZ` (R389): taken when s64(x[rs]) >= 0. -/
def execBgez (rs : RegIdx) (imm : BitVec 16) (s : State) : Host.Outcome State Fault Refusal :=
  runControlFlow (branchOp (.gez rs) imm false none) s

/-- `BLTZL` (R390): taken when s64(x[rs]) < 0; likely. -/
def execBltzl (rs : RegIdx) (imm : BitVec 16) (s : State) : Host.Outcome State Fault Refusal :=
  runControlFlow (branchOp (.ltz rs) imm true none) s

/-- `BGEZL` (R391): taken when s64(x[rs]) >= 0; likely. -/
def execBgezl (rs : RegIdx) (imm : BitVec 16) (s : State) : Host.Outcome State Fault Refusal :=
  runControlFlow (branchOp (.gez rs) imm true none) s

/-- `BLTZAL` (R392): taken when s64(x[rs]) < 0; x[31] <- c + 8. -/
def execBltzal (rs : RegIdx) (imm : BitVec 16) (s : State) : Host.Outcome State Fault Refusal :=
  runControlFlow (branchOp (.ltz rs) imm false (some 31)) s

/-- `BGEZAL` (R393): taken when s64(x[rs]) >= 0; x[31] <- c + 8. -/
def execBgezal (rs : RegIdx) (imm : BitVec 16) (s : State) : Host.Outcome State Fault Refusal :=
  runControlFlow (branchOp (.gez rs) imm false (some 31)) s

/-- `BLTZALL` (R394): taken when s64(x[rs]) < 0; x[31] <- c + 8; likely. -/
def execBltzall (rs : RegIdx) (imm : BitVec 16) (s : State) : Host.Outcome State Fault Refusal :=
  runControlFlow (branchOp (.ltz rs) imm true (some 31)) s

/-- `BGEZALL` (R395): taken when s64(x[rs]) >= 0; x[31] <- c + 8; likely. -/
def execBgezall (rs : RegIdx) (imm : BitVec 16) (s : State) : Host.Outcome State Fault Refusal :=
  runControlFlow (branchOp (.gez rs) imm true (some 31)) s

/-- `BC1F` (R398): if CU1 = 0 raise CpU(1), else taken when FCSR.C = 0. -/
def execBc1f (imm : BitVec 16) (s : State) : Host.Outcome State Fault Refusal :=
  runControlFlow (branchOp .copFalse imm false none) s

/-- `BC1T` (R399): if CU1 = 0 raise CpU(1), else taken when FCSR.C = 1. -/
def execBc1t (imm : BitVec 16) (s : State) : Host.Outcome State Fault Refusal :=
  runControlFlow (branchOp .copTrue imm false none) s

/-- `BC1FL` (R400): if CU1 = 0 raise CpU(1), else taken when FCSR.C = 0; likely. -/
def execBc1fl (imm : BitVec 16) (s : State) : Host.Outcome State Fault Refusal :=
  runControlFlow (branchOp .copFalse imm true none) s

/-- `BC1TL` (R401): if CU1 = 0 raise CpU(1), else taken when FCSR.C = 1; likely. -/
def execBc1tl (imm : BitVec 16) (s : State) : Host.Outcome State Fault Refusal :=
  runControlFlow (branchOp .copTrue imm true none) s

end Sys2Proof.Machine
end

