-- ==== Sys2Proof/Machine/LoadStore.lean ====
section
/-! DEFINITION. Loads and stores (41_load_store.md):
one meaning for each instruction, a use of the engine's contract of its IR variant. -/

namespace Sys2Proof.Machine

/-- `LB` (R224): x[rt] <- sext_8(MemRead(ea, 1)). -/
def execLb (base : RegIdx) (rt : RegIdx) (offset : BitVec 16) (s : State) :
    Host.Outcome State Fault Refusal :=
  finish (runLoad (loadOp .b8 .s (.g rt) base offset) s)

/-- `LBU` (R225): x[rt] <- zext_8(MemRead(ea, 1)). -/
def execLbu (base : RegIdx) (rt : RegIdx) (offset : BitVec 16) (s : State) :
    Host.Outcome State Fault Refusal :=
  finish (runLoad (loadOp .b8 .z (.g rt) base offset) s)

/-- `LH` (R226): x[rt] <- sext_16(MemRead(ea, 2)). -/
def execLh (base : RegIdx) (rt : RegIdx) (offset : BitVec 16) (s : State) :
    Host.Outcome State Fault Refusal :=
  finish (runLoad (loadOp .b16 .s (.g rt) base offset) s)

/-- `LHU` (R227): x[rt] <- zext_16(MemRead(ea, 2)). -/
def execLhu (base : RegIdx) (rt : RegIdx) (offset : BitVec 16) (s : State) :
    Host.Outcome State Fault Refusal :=
  finish (runLoad (loadOp .b16 .z (.g rt) base offset) s)

/-- `LW` (R228): x[rt] <- sext_32(MemRead(ea, 4)). -/
def execLw (base : RegIdx) (rt : RegIdx) (offset : BitVec 16) (s : State) :
    Host.Outcome State Fault Refusal :=
  finish (runLoad (loadOp .b32 .s (.g rt) base offset) s)

/-- `LWU` (R229): x[rt] <- zext_32(MemRead(ea, 4)). -/
def execLwu (base : RegIdx) (rt : RegIdx) (offset : BitVec 16) (s : State) :
    Host.Outcome State Fault Refusal :=
  finish (runLoad (loadOp .b32 .z (.g rt) base offset) s)

/-- `LD` (R230): x[rt] <- MemRead(ea, 8). -/
def execLd (base : RegIdx) (rt : RegIdx) (offset : BitVec 16) (s : State) :
    Host.Outcome State Fault Refusal :=
  finish (runLoad (loadOp .b64 .s (.g rt) base offset) s)

/-- `LWL` (R232): fatal UnsupportedFeature(UnalignedForm). -/
def execLwl (base : RegIdx) (rt : RegIdx) (offset : BitVec 16) (s : State) :
    Host.Outcome State Fault Refusal :=
  finish (runLoad (unalignedLoadOp .b32 rt base offset) s)

/-- `LWR` (R233): fatal UnsupportedFeature(UnalignedForm). -/
def execLwr (base : RegIdx) (rt : RegIdx) (offset : BitVec 16) (s : State) :
    Host.Outcome State Fault Refusal :=
  finish (runLoad (unalignedLoadOp .b32 rt base offset) s)

/-- `LDL` (R234): fatal UnsupportedFeature(UnalignedForm). -/
def execLdl (base : RegIdx) (rt : RegIdx) (offset : BitVec 16) (s : State) :
    Host.Outcome State Fault Refusal :=
  finish (runLoad (unalignedLoadOp .b64 rt base offset) s)

/-- `LDR` (R235): fatal UnsupportedFeature(UnalignedForm). -/
def execLdr (base : RegIdx) (rt : RegIdx) (offset : BitVec 16) (s : State) :
    Host.Outcome State Fault Refusal :=
  finish (runLoad (unalignedLoadOp .b64 rt base offset) s)

/-- `LL` (R236): fatal UnsupportedFeature(LoadLinked). -/
def execLl (base : RegIdx) (rt : RegIdx) (offset : BitVec 16) (s : State) :
    Host.Outcome State Fault Refusal :=
  finish (runLoad (linkedLoadOp .b32 rt base offset) s)

/-- `LLD` (R237): fatal UnsupportedFeature(LoadLinked). -/
def execLld (base : RegIdx) (rt : RegIdx) (offset : BitVec 16) (s : State) :
    Host.Outcome State Fault Refusal :=
  finish (runLoad (linkedLoadOp .b64 rt base offset) s)

/-- `LWC1` (R238): if CU1 = 0 raise CpU(1), else f[ft][31:0] <- MemRead(ea, 4). -/
def execLwc1 (base : RegIdx) (ft : RegIdx) (offset : BitVec 16) (s : State) :
    Host.Outcome State Fault Refusal :=
  finish (runLoad (loadOp .b32 .z (.f ft) base offset) s)

/-- `LDC1` (R239): if CU1 = 0 raise CpU(1), else f[ft] <- MemRead(ea, 8). -/
def execLdc1 (base : RegIdx) (ft : RegIdx) (offset : BitVec 16) (s : State) :
    Host.Outcome State Fault Refusal :=
  finish (runLoad (loadOp .b64 .s (.f ft) base offset) s)

/-- `LUI` (R231): x[rt] <- sext_32(imm << 16). -/
def execLui (rt : RegIdx) (imm : BitVec 16) (s : State) : Host.Outcome State Fault Refusal :=
  finish (runLoad (luiOp rt imm) s)

/-- `SB` (R242): MemWrite(ea, 1, x[rt]). -/
def execSb (base : RegIdx) (rt : RegIdx) (offset : BitVec 16) (s : State) :
    Host.Outcome State Fault Refusal :=
  finish (runStore (storeOp .b8 (.g rt) base offset) s)

/-- `SH` (R243): MemWrite(ea, 2, x[rt]). -/
def execSh (base : RegIdx) (rt : RegIdx) (offset : BitVec 16) (s : State) :
    Host.Outcome State Fault Refusal :=
  finish (runStore (storeOp .b16 (.g rt) base offset) s)

/-- `SW` (R244): MemWrite(ea, 4, x[rt]). -/
def execSw (base : RegIdx) (rt : RegIdx) (offset : BitVec 16) (s : State) :
    Host.Outcome State Fault Refusal :=
  finish (runStore (storeOp .b32 (.g rt) base offset) s)

/-- `SD` (R245): MemWrite(ea, 8, x[rt]). -/
def execSd (base : RegIdx) (rt : RegIdx) (offset : BitVec 16) (s : State) :
    Host.Outcome State Fault Refusal :=
  finish (runStore (storeOp .b64 (.g rt) base offset) s)

/-- `SWL` (R248): fatal UnsupportedFeature(UnalignedForm). -/
def execSwl (base : RegIdx) (rt : RegIdx) (offset : BitVec 16) (s : State) :
    Host.Outcome State Fault Refusal :=
  finish (runStore (unalignedStoreOp .b32 rt base offset) s)

/-- `SWR` (R249): fatal UnsupportedFeature(UnalignedForm). -/
def execSwr (base : RegIdx) (rt : RegIdx) (offset : BitVec 16) (s : State) :
    Host.Outcome State Fault Refusal :=
  finish (runStore (unalignedStoreOp .b32 rt base offset) s)

/-- `SDL` (R250): fatal UnsupportedFeature(UnalignedForm). -/
def execSdl (base : RegIdx) (rt : RegIdx) (offset : BitVec 16) (s : State) :
    Host.Outcome State Fault Refusal :=
  finish (runStore (unalignedStoreOp .b64 rt base offset) s)

/-- `SDR` (R251): fatal UnsupportedFeature(UnalignedForm). -/
def execSdr (base : RegIdx) (rt : RegIdx) (offset : BitVec 16) (s : State) :
    Host.Outcome State Fault Refusal :=
  finish (runStore (unalignedStoreOp .b64 rt base offset) s)

/-- `SC` (R252): fatal UnsupportedFeature(StoreConditional). -/
def execSc (base : RegIdx) (rt : RegIdx) (offset : BitVec 16) (s : State) :
    Host.Outcome State Fault Refusal :=
  finish (runStore (conditionalStoreOp .b32 rt base offset) s)

/-- `SCD` (R253): fatal UnsupportedFeature(StoreConditional). -/
def execScd (base : RegIdx) (rt : RegIdx) (offset : BitVec 16) (s : State) :
    Host.Outcome State Fault Refusal :=
  finish (runStore (conditionalStoreOp .b64 rt base offset) s)

/-- `SWC1` (R246): if CU1 = 0 raise CpU(1), else MemWrite(ea, 4, f[ft]). -/
def execSwc1 (base : RegIdx) (ft : RegIdx) (offset : BitVec 16) (s : State) :
    Host.Outcome State Fault Refusal :=
  finish (runStore (storeOp .b32 (.f ft) base offset) s)

/-- `SDC1` (R247): if CU1 = 0 raise CpU(1), else MemWrite(ea, 8, f[ft]). -/
def execSdc1 (base : RegIdx) (ft : RegIdx) (offset : BitVec 16) (s : State) :
    Host.Outcome State Fault Refusal :=
  finish (runStore (storeOp .b64 (.f ft) base offset) s)

end Sys2Proof.Machine
end

