-- ==== Sys2Proof/Machine/Move.lean ====
section
/-! DEFINITION. Coprocessor transfers (45_move.md):
one meaning for each instruction, a use of the engine's contract of its IR variant. -/

namespace Sys2Proof.Machine

/-- `MFC0` (R412): x[rt] <- c0[rd], the whole slot. -/
def execMfc0 (rt : RegIdx) (rd : RegIdx) (s : State) : Host.Outcome State Fault Refusal :=
  finish (runMove (.fromCop (.c0 rd) rt) s)

/-- `DMFC0` (R413): x[rt] <- c0[rd], the whole slot. -/
def execDmfc0 (rt : RegIdx) (rd : RegIdx) (s : State) : Host.Outcome State Fault Refusal :=
  finish (runMove (.fromCop (.c0 rd) rt) s)

/-- `MTC0` (R414): c0[rd] <- x[rt] through the write mask. -/
def execMtc0 (rt : RegIdx) (rd : RegIdx) (s : State) : Host.Outcome State Fault Refusal :=
  finish (runMove (.toCop rt (.c0 rd)) s)

/-- `DMTC0` (R415): c0[rd] <- x[rt] through the write mask. -/
def execDmtc0 (rt : RegIdx) (rd : RegIdx) (s : State) : Host.Outcome State Fault Refusal :=
  finish (runMove (.toCop rt (.c0 rd)) s)

/-- `MFC1` (R416): if CU1 = 0 raise CpU(1), else x[rt] <- f[fs]. -/
def execMfc1 (rt : RegIdx) (fs : RegIdx) (s : State) : Host.Outcome State Fault Refusal :=
  finish (runMove (.fromCop (.f fs) rt) s)

/-- `DMFC1` (R417): if CU1 = 0 raise CpU(1), else x[rt] <- f[fs]. -/
def execDmfc1 (rt : RegIdx) (fs : RegIdx) (s : State) : Host.Outcome State Fault Refusal :=
  finish (runMove (.fromCop (.f fs) rt) s)

/-- `CFC1` (R422): if CU1 = 0 raise CpU(1), else x[rt] <- fcr[fs], fatal for an absent register. -/
def execCfc1 (rt : RegIdx) (fs : RegIdx) (s : State) : Host.Outcome State Fault Refusal :=
  finish (runMove (.fromCop (.fc fs) rt) s)

/-- `MTC1` (R418): if CU1 = 0 raise CpU(1), else f[fs] <- x[rt]. -/
def execMtc1 (rt : RegIdx) (fs : RegIdx) (s : State) : Host.Outcome State Fault Refusal :=
  finish (runMove (.toCop rt (.f fs)) s)

/-- `DMTC1` (R419): if CU1 = 0 raise CpU(1), else f[fs] <- x[rt]. -/
def execDmtc1 (rt : RegIdx) (fs : RegIdx) (s : State) : Host.Outcome State Fault Refusal :=
  finish (runMove (.toCop rt (.f fs)) s)

/-- `CTC1` (R423): if CU1 = 0 raise CpU(1), else fcr[fs] <- x[rt], fatal for an absent register. -/
def execCtc1 (rt : RegIdx) (fs : RegIdx) (s : State) : Host.Outcome State Fault Refusal :=
  finish (runMove (.toCop rt (.fc fs)) s)

end Sys2Proof.Machine
end

