-- ==== Sys2Proof/Machine/System.lean ====
section
/-! DEFINITION. System instructions and the recognised but unimplemented encodings (46_system.md):
one meaning for each instruction, a use of the engine's contract of its IR variant. -/

namespace Sys2Proof.Machine

/-- `CACHE` (R430): no effect. -/
def execCache (base : RegIdx) (cop : BitVec 5) (offset : BitVec 16) (s : State) :
    Host.Outcome State Fault Refusal :=
  finish (runSystem (.cache cop base (sextImm offset)) s)

/-- `SYSCALL` (R431): raise Sys. -/
def execSyscall (code : BitVec 20) (s : State) : Host.Outcome State Fault Refusal :=
  finish (runSystem (.syscall code) s)

/-- `BREAK` (R432): raise Bp. -/
def execBrk (code : BitVec 20) (s : State) : Host.Outcome State Fault Refusal :=
  finish (runSystem (.brk code) s)

/-- `SYNC` (R433): no effect. -/
def execSync (s : State) : Host.Outcome State Fault Refusal :=
  finish (runSystem .sync s)

/-- `TGE` (R435): raise Tr when s64(x[rs]) >= s64(x[rt]). -/
def execTge (rs : RegIdx) (rt : RegIdx) (s : State) : Host.Outcome State Fault Refusal :=
  finish (runSystem (.trap .ge rs (.reg rt)) s)

/-- `TGEU` (R436): raise Tr when u64(x[rs]) >= u64(x[rt]). -/
def execTgeu (rs : RegIdx) (rt : RegIdx) (s : State) : Host.Outcome State Fault Refusal :=
  finish (runSystem (.trap .geu rs (.reg rt)) s)

/-- `TLT` (R437): raise Tr when s64(x[rs]) < s64(x[rt]). -/
def execTlt (rs : RegIdx) (rt : RegIdx) (s : State) : Host.Outcome State Fault Refusal :=
  finish (runSystem (.trap .lt rs (.reg rt)) s)

/-- `TLTU` (R438): raise Tr when u64(x[rs]) < u64(x[rt]). -/
def execTltu (rs : RegIdx) (rt : RegIdx) (s : State) : Host.Outcome State Fault Refusal :=
  finish (runSystem (.trap .ltu rs (.reg rt)) s)

/-- `TEQ` (R439): raise Tr when x[rs] = x[rt]. -/
def execTeq (rs : RegIdx) (rt : RegIdx) (s : State) : Host.Outcome State Fault Refusal :=
  finish (runSystem (.trap .eq rs (.reg rt)) s)

/-- `TNE` (R440): raise Tr when x[rs] != x[rt]. -/
def execTne (rs : RegIdx) (rt : RegIdx) (s : State) : Host.Outcome State Fault Refusal :=
  finish (runSystem (.trap .ne rs (.reg rt)) s)

/-- `TGEI` (R441): raise Tr when s64(x[rs]) >= sext_16(imm). -/
def execTgei (rs : RegIdx) (imm : BitVec 16) (s : State) : Host.Outcome State Fault Refusal :=
  finish (runSystem (.trap .ge rs (.imm (sextImm imm))) s)

/-- `TGEIU` (R442): raise Tr when u64(x[rs]) >= u64(sext_16(imm)). -/
def execTgeiu (rs : RegIdx) (imm : BitVec 16) (s : State) : Host.Outcome State Fault Refusal :=
  finish (runSystem (.trap .geu rs (.imm (sextImm imm))) s)

/-- `TLTI` (R443): raise Tr when s64(x[rs]) < sext_16(imm). -/
def execTlti (rs : RegIdx) (imm : BitVec 16) (s : State) : Host.Outcome State Fault Refusal :=
  finish (runSystem (.trap .lt rs (.imm (sextImm imm))) s)

/-- `TLTIU` (R444): raise Tr when u64(x[rs]) < u64(sext_16(imm)). -/
def execTltiu (rs : RegIdx) (imm : BitVec 16) (s : State) : Host.Outcome State Fault Refusal :=
  finish (runSystem (.trap .ltu rs (.imm (sextImm imm))) s)

/-- `TEQI` (R445): raise Tr when x[rs] = sext_16(imm). -/
def execTeqi (rs : RegIdx) (imm : BitVec 16) (s : State) : Host.Outcome State Fault Refusal :=
  finish (runSystem (.trap .eq rs (.imm (sextImm imm))) s)

/-- `TNEI` (R446): raise Tr when x[rs] != sext_16(imm). -/
def execTnei (rs : RegIdx) (imm : BitVec 16) (s : State) : Host.Outcome State Fault Refusal :=
  finish (runSystem (.trap .ne rs (.imm (sextImm imm))) s)

/-- `TLBR` (R450): fatal UnsupportedFeature(Tlb). -/
def execTlbr (s : State) : Host.Outcome State Fault Refusal :=
  finish (runSystem .tlbr s)

/-- `TLBWI` (R451): fatal UnsupportedFeature(Tlb). -/
def execTlbwi (s : State) : Host.Outcome State Fault Refusal :=
  finish (runSystem .tlbwi s)

/-- `TLBWR` (R452): fatal UnsupportedFeature(Tlb). -/
def execTlbwr (s : State) : Host.Outcome State Fault Refusal :=
  finish (runSystem .tlbwr s)

/-- `TLBP` (R453): fatal UnsupportedFeature(Tlb). -/
def execTlbp (s : State) : Host.Outcome State Fault Refusal :=
  finish (runSystem .tlbp s)

/-- `ERET` (R454): pc <- ErrorEPC or EPC, ERL or EXL <- 0, LLbit <- 0. -/
def execEret (s : State) : Host.Outcome State Fault Refusal :=
  finish (runSystem .eret s)

/-- `COP1.S` (R457): fatal UnsupportedFeature(UnimplementedOpcode(Cop1Arith)). -/
def execCop1S (s : State) : Host.Outcome State Fault Refusal :=
  finish (runUnimplemented .cop1Arith s)

/-- `COP1.D` (R457): fatal UnsupportedFeature(UnimplementedOpcode(Cop1Arith)). -/
def execCop1D (s : State) : Host.Outcome State Fault Refusal :=
  finish (runUnimplemented .cop1Arith s)

/-- `COP1.W` (R457): fatal UnsupportedFeature(UnimplementedOpcode(Cop1Arith)). -/
def execCop1W (s : State) : Host.Outcome State Fault Refusal :=
  finish (runUnimplemented .cop1Arith s)

/-- `COP1.L` (R457): fatal UnsupportedFeature(UnimplementedOpcode(Cop1Arith)). -/
def execCop1L (s : State) : Host.Outcome State Fault Refusal :=
  finish (runUnimplemented .cop1Arith s)

/-- The meaning of a reserved word, which is no instruction (R456): raise RI. -/
def execMalformed (s : State) : Host.Outcome State Fault Refusal := finish (runMalformed s)

end Sys2Proof.Machine
end

