-- ==== Sys2Proof/Machine/Dispatch.lean ====
section
/-! DEFINITION. The instruction dispatch: one arm per constructor of `Instr`. -/

namespace Sys2Proof.Machine

def exec (i : Instr) (s : State) : Host.Outcome State Fault Refusal :=
  match i with
  | .lb base rt offset => Sys2Proof.Machine.execLb base rt offset s
  | .lbu base rt offset => Sys2Proof.Machine.execLbu base rt offset s
  | .lh base rt offset => Sys2Proof.Machine.execLh base rt offset s
  | .lhu base rt offset => Sys2Proof.Machine.execLhu base rt offset s
  | .lw base rt offset => Sys2Proof.Machine.execLw base rt offset s
  | .lwu base rt offset => Sys2Proof.Machine.execLwu base rt offset s
  | .ld base rt offset => Sys2Proof.Machine.execLd base rt offset s
  | .lwl base rt offset => Sys2Proof.Machine.execLwl base rt offset s
  | .lwr base rt offset => Sys2Proof.Machine.execLwr base rt offset s
  | .ldl base rt offset => Sys2Proof.Machine.execLdl base rt offset s
  | .ldr base rt offset => Sys2Proof.Machine.execLdr base rt offset s
  | .ll base rt offset => Sys2Proof.Machine.execLl base rt offset s
  | .lld base rt offset => Sys2Proof.Machine.execLld base rt offset s
  | .lwc1 base ft offset => Sys2Proof.Machine.execLwc1 base ft offset s
  | .ldc1 base ft offset => Sys2Proof.Machine.execLdc1 base ft offset s
  | .lui rt imm => Sys2Proof.Machine.execLui rt imm s
  | .sb base rt offset => Sys2Proof.Machine.execSb base rt offset s
  | .sh base rt offset => Sys2Proof.Machine.execSh base rt offset s
  | .sw base rt offset => Sys2Proof.Machine.execSw base rt offset s
  | .sd base rt offset => Sys2Proof.Machine.execSd base rt offset s
  | .swl base rt offset => Sys2Proof.Machine.execSwl base rt offset s
  | .swr base rt offset => Sys2Proof.Machine.execSwr base rt offset s
  | .sdl base rt offset => Sys2Proof.Machine.execSdl base rt offset s
  | .sdr base rt offset => Sys2Proof.Machine.execSdr base rt offset s
  | .sc base rt offset => Sys2Proof.Machine.execSc base rt offset s
  | .scd base rt offset => Sys2Proof.Machine.execScd base rt offset s
  | .swc1 base ft offset => Sys2Proof.Machine.execSwc1 base ft offset s
  | .sdc1 base ft offset => Sys2Proof.Machine.execSdc1 base ft offset s
  | .addi rs rt imm => Sys2Proof.Machine.execAddi rs rt imm s
  | .addiu rs rt imm => Sys2Proof.Machine.execAddiu rs rt imm s
  | .slti rs rt imm => Sys2Proof.Machine.execSlti rs rt imm s
  | .sltiu rs rt imm => Sys2Proof.Machine.execSltiu rs rt imm s
  | .andi rs rt imm => Sys2Proof.Machine.execAndi rs rt imm s
  | .ori rs rt imm => Sys2Proof.Machine.execOri rs rt imm s
  | .xori rs rt imm => Sys2Proof.Machine.execXori rs rt imm s
  | .daddi rs rt imm => Sys2Proof.Machine.execDaddi rs rt imm s
  | .daddiu rs rt imm => Sys2Proof.Machine.execDaddiu rs rt imm s
  | .beq rs rt imm => Sys2Proof.Machine.execBeq rs rt imm s
  | .bne rs rt imm => Sys2Proof.Machine.execBne rs rt imm s
  | .beql rs rt imm => Sys2Proof.Machine.execBeql rs rt imm s
  | .bnel rs rt imm => Sys2Proof.Machine.execBnel rs rt imm s
  | .blez rs imm => Sys2Proof.Machine.execBlez rs imm s
  | .bgtz rs imm => Sys2Proof.Machine.execBgtz rs imm s
  | .blezl rs imm => Sys2Proof.Machine.execBlezl rs imm s
  | .bgtzl rs imm => Sys2Proof.Machine.execBgtzl rs imm s
  | .cache base cop offset => Sys2Proof.Machine.execCache base cop offset s
  | .j index => Sys2Proof.Machine.execJ index s
  | .jal index => Sys2Proof.Machine.execJal index s
  | .sll rt rd sa => Sys2Proof.Machine.execSll rt rd sa s
  | .srl rt rd sa => Sys2Proof.Machine.execSrl rt rd sa s
  | .sra rt rd sa => Sys2Proof.Machine.execSra rt rd sa s
  | .dsll rt rd sa => Sys2Proof.Machine.execDsll rt rd sa s
  | .dsrl rt rd sa => Sys2Proof.Machine.execDsrl rt rd sa s
  | .dsra rt rd sa => Sys2Proof.Machine.execDsra rt rd sa s
  | .dsll32 rt rd sa => Sys2Proof.Machine.execDsll32 rt rd sa s
  | .dsrl32 rt rd sa => Sys2Proof.Machine.execDsrl32 rt rd sa s
  | .dsra32 rt rd sa => Sys2Proof.Machine.execDsra32 rt rd sa s
  | .sllv rs rt rd => Sys2Proof.Machine.execSllv rs rt rd s
  | .srlv rs rt rd => Sys2Proof.Machine.execSrlv rs rt rd s
  | .srav rs rt rd => Sys2Proof.Machine.execSrav rs rt rd s
  | .dsllv rs rt rd => Sys2Proof.Machine.execDsllv rs rt rd s
  | .dsrlv rs rt rd => Sys2Proof.Machine.execDsrlv rs rt rd s
  | .dsrav rs rt rd => Sys2Proof.Machine.execDsrav rs rt rd s
  | .add rs rt rd => Sys2Proof.Machine.execAdd rs rt rd s
  | .addu rs rt rd => Sys2Proof.Machine.execAddu rs rt rd s
  | .sub rs rt rd => Sys2Proof.Machine.execSub rs rt rd s
  | .subu rs rt rd => Sys2Proof.Machine.execSubu rs rt rd s
  | .and rs rt rd => Sys2Proof.Machine.execAnd rs rt rd s
  | .or rs rt rd => Sys2Proof.Machine.execOr rs rt rd s
  | .xor rs rt rd => Sys2Proof.Machine.execXor rs rt rd s
  | .nor rs rt rd => Sys2Proof.Machine.execNor rs rt rd s
  | .slt rs rt rd => Sys2Proof.Machine.execSlt rs rt rd s
  | .sltu rs rt rd => Sys2Proof.Machine.execSltu rs rt rd s
  | .dadd rs rt rd => Sys2Proof.Machine.execDadd rs rt rd s
  | .daddu rs rt rd => Sys2Proof.Machine.execDaddu rs rt rd s
  | .dsub rs rt rd => Sys2Proof.Machine.execDsub rs rt rd s
  | .dsubu rs rt rd => Sys2Proof.Machine.execDsubu rs rt rd s
  | .mult rs rt => Sys2Proof.Machine.execMult rs rt s
  | .multu rs rt => Sys2Proof.Machine.execMultu rs rt s
  | .div rs rt => Sys2Proof.Machine.execDiv rs rt s
  | .divu rs rt => Sys2Proof.Machine.execDivu rs rt s
  | .dmult rs rt => Sys2Proof.Machine.execDmult rs rt s
  | .dmultu rs rt => Sys2Proof.Machine.execDmultu rs rt s
  | .ddiv rs rt => Sys2Proof.Machine.execDdiv rs rt s
  | .ddivu rs rt => Sys2Proof.Machine.execDdivu rs rt s
  | .mfhi rd => Sys2Proof.Machine.execMfhi rd s
  | .mflo rd => Sys2Proof.Machine.execMflo rd s
  | .mthi rs => Sys2Proof.Machine.execMthi rs s
  | .mtlo rs => Sys2Proof.Machine.execMtlo rs s
  | .jr rs => Sys2Proof.Machine.execJr rs s
  | .jalr rs rd => Sys2Proof.Machine.execJalr rs rd s
  | .syscall code => Sys2Proof.Machine.execSyscall code s
  | .brk code => Sys2Proof.Machine.execBrk code s
  | .sync => Sys2Proof.Machine.execSync s
  | .tge rs rt => Sys2Proof.Machine.execTge rs rt s
  | .tgeu rs rt => Sys2Proof.Machine.execTgeu rs rt s
  | .tlt rs rt => Sys2Proof.Machine.execTlt rs rt s
  | .tltu rs rt => Sys2Proof.Machine.execTltu rs rt s
  | .teq rs rt => Sys2Proof.Machine.execTeq rs rt s
  | .tne rs rt => Sys2Proof.Machine.execTne rs rt s
  | .bltz rs imm => Sys2Proof.Machine.execBltz rs imm s
  | .bgez rs imm => Sys2Proof.Machine.execBgez rs imm s
  | .bltzl rs imm => Sys2Proof.Machine.execBltzl rs imm s
  | .bgezl rs imm => Sys2Proof.Machine.execBgezl rs imm s
  | .bltzal rs imm => Sys2Proof.Machine.execBltzal rs imm s
  | .bgezal rs imm => Sys2Proof.Machine.execBgezal rs imm s
  | .bltzall rs imm => Sys2Proof.Machine.execBltzall rs imm s
  | .bgezall rs imm => Sys2Proof.Machine.execBgezall rs imm s
  | .tgei rs imm => Sys2Proof.Machine.execTgei rs imm s
  | .tgeiu rs imm => Sys2Proof.Machine.execTgeiu rs imm s
  | .tlti rs imm => Sys2Proof.Machine.execTlti rs imm s
  | .tltiu rs imm => Sys2Proof.Machine.execTltiu rs imm s
  | .teqi rs imm => Sys2Proof.Machine.execTeqi rs imm s
  | .tnei rs imm => Sys2Proof.Machine.execTnei rs imm s
  | .mfc0 rt rd => Sys2Proof.Machine.execMfc0 rt rd s
  | .dmfc0 rt rd => Sys2Proof.Machine.execDmfc0 rt rd s
  | .mtc0 rt rd => Sys2Proof.Machine.execMtc0 rt rd s
  | .dmtc0 rt rd => Sys2Proof.Machine.execDmtc0 rt rd s
  | .tlbr => Sys2Proof.Machine.execTlbr s
  | .tlbwi => Sys2Proof.Machine.execTlbwi s
  | .tlbwr => Sys2Proof.Machine.execTlbwr s
  | .tlbp => Sys2Proof.Machine.execTlbp s
  | .eret => Sys2Proof.Machine.execEret s
  | .mfc1 rt fs => Sys2Proof.Machine.execMfc1 rt fs s
  | .dmfc1 rt fs => Sys2Proof.Machine.execDmfc1 rt fs s
  | .cfc1 rt fs => Sys2Proof.Machine.execCfc1 rt fs s
  | .mtc1 rt fs => Sys2Proof.Machine.execMtc1 rt fs s
  | .dmtc1 rt fs => Sys2Proof.Machine.execDmtc1 rt fs s
  | .ctc1 rt fs => Sys2Proof.Machine.execCtc1 rt fs s
  | .bc1f imm => Sys2Proof.Machine.execBc1f imm s
  | .bc1t imm => Sys2Proof.Machine.execBc1t imm s
  | .bc1fl imm => Sys2Proof.Machine.execBc1fl imm s
  | .bc1tl imm => Sys2Proof.Machine.execBc1tl imm s
  | .cop1S => Sys2Proof.Machine.execCop1S s
  | .cop1D => Sys2Proof.Machine.execCop1D s
  | .cop1W => Sys2Proof.Machine.execCop1W s
  | .cop1L => Sys2Proof.Machine.execCop1L s

end Sys2Proof.Machine
end

