-- ==== Sys2Proof/Machine/Step.lean ====
section
/-! DEFINITION. One step of the machine: a boot stage, the formation of a block, or one operation of the
current block (00_scope.md R9; 40_pipeline.md R190, R201; 70_reset_and_hazards.md R511). -/

namespace Sys2Proof.Machine

/-- The step that executes the operation a word decodes to (40_pipeline.md R199 to R201). -/
def execWord (w : InstrWord) (s : State) : Host.Outcome State Fault Refusal :=
  match decodeWord w with
  | some i => exec i s
  | none => execMalformed s

/-- One step. -/
def step (s : State) : Host.Outcome State Fault Refusal :=
  match s.phase with
  | .reset => .next (bootStage1 s)
  | .boot1Done => .next (bootStage2 s)
  | .running =>
    match s.block with
    | [] => .next (formBlock s)
    | e :: _ => execWord e.word s
  | .halted f => .fault (.halted f)
  | .stopped => .fault .stopped

/-- `s` with the instruction of `nbits` bits `w` placed where the next step runs it (log 9). -/
def State.withFetchWord (s : State) (nbits w : Nat) : State :=
  placeFetchWord (readyToRun s) (BitVec.ofNat 32 (w % 2 ^ nbits))

end Sys2Proof.Machine
end

