-- ==== Sys2Proof/Safety.lean ====
section
/-! DEFINITION. What counts as a safe run: the invariants of the machine, and the terms claims about one
operation are stated in (what changed, what an operation raises, where it halts). -/

namespace Sys2Proof.Machine

/-! ## Invariants -/

/-- The address is that of a byte that exists: of RAM, DMEM or IMEM (10_state.md R59, R60). -/
abbrev byteExists (cfg : Params) (a : Nat) : Prop :=
  a < cfg.ramSize.val ∨ (Config.spBase ≤ a ∧ a < Config.spBase + Config.spMirror)

/-- Memory is in its canonical form and holds only bytes that exist. -/
def State.memoryOk (s : State) : Prop := s.mem.wf = true ∧ ∀ c ∈ s.mem, byteExists s.cfg c.1

/-- Every reserved, constant and read-only bit of a control register holds its fixed value, and the bits
that a narrower slot lacks are 0 (10_state.md R40 to R47, R52, R53; 45_move.md R420; log 21). -/
def State.controlOk (s : State) : Prop :=
  (∀ i : RegIdx, s.c0[i] &&& reservedBits s.cfg i = constantPattern s.cfg i)
    ∧ s.fcr0 = s.cfg.fcr0 ∧ s.fcsr &&& ~~~fcsrMask = 0#64

/-- The load-linked flag is 0 (10_state.md R39). -/
def State.llbitOk (s : State) : Prop := s.llbit = false

/-- The program counter and the floating-point registers hold values of their widths (00_scope.md R8;
10_state.md R34, R51; log 21). -/
def State.widthsOk (s : State) : Prop :=
  toPc s.cfg s.pc = s.pc ∧ ∀ i, fitWidth s.cfg.fprWidth (s.readF i) = s.readF i

/-- The address `k` words after `a`, as the program counter holds it. -/
def wordAfter (cfg : Params) (a : Word) (k : Nat) : Word :=
  if k = 0 then a else toPc cfg (a + BitVec.ofNat 64 (4 * k))

/-- The entries stand at consecutive addresses from `a` on (40_pipeline.md R196). -/
def consecutiveFrom (cfg : Params) : Word → List BlockEntry → Prop
  | _, [] => True
  | a, e :: rest => e.addr = a ∧ consecutiveFrom cfg (toPc cfg (a + 4#64)) rest

/-- Straight-line entries, then one control transfer, then its delay slot (40_pipeline.md R196). -/
def bufferShape : List BlockEntry → Prop
  | [] => False
  | [_] => False
  | [ct, _] => isCT ct.word = true
  | e :: rest => isCT e.word = false ∧ bufferShape rest

/-- The rest of a block before its control transfer has executed: none, or the tail of a block that
starts at the program counter and is within the bound of the scan (40_pipeline.md R196, R197, R201). -/
def restOk (cfg : Params) (pc : PcWord) (b : List BlockEntry) : Prop :=
  b = [] ∨ (bufferShape b ∧ consecutiveFrom cfg pc b ∧ b.length ≤ cfg.blockScanLimit + 1)

/-- Between a control transfer and the end of its delay slot, exactly the delay slot is left, and it
stands at the word after the control transfer (10_state.md R67; 40_pipeline.md R201). -/
def delaySlotOk (cfg : Params) (pc : Word) (b : List BlockEntry) (p : PendingBranch) : Prop :=
  pc = toPc cfg (p.ctAddr + 4#64) ∧ ∃ w, b = [⟨pc, w⟩]

/-- The block buffer and the pending-branch latch of a state between two steps (10_state.md R66, R67). -/
def State.sequenceOk (s : State) : Prop :=
  match s.phase with
  | .reset => s.block = [] ∧ s.latch = none
  | .boot1Done => s.block = [] ∧ s.latch = none
  | .running =>
    match s.latch with
    | none => restOk s.cfg s.pc s.block
    | some p => delaySlotOk s.cfg s.pc s.block p
  | .halted _ => True
  | .stopped => True

/-! ## What an operation changed -/

/-- What an operation may change, beside the program counter, the block buffer and the latch. -/
structure Changes where
  x : List RegIdx := []
  f : List RegIdx := []
  c0 : List RegIdx := []
  hi : Bool := false
  lo : Bool := false
  llbit : Bool := false
  fcsr : Bool := false
  mem : Bool := false
  pi : Bool := false
  deriving DecidableEq, Repr

/-- The frame: everything `c` does not list is as before. The run phase, the read-only `fcr[0]`, the
cartridge and the parameters are listed by no instruction; that the parameters are in State and stay is the
model's choice (log 5). -/
structure Frame (c : Changes) (s t : State) : Prop where
  x : ∀ i, i ∉ c.x → t.readX i = s.readX i
  f : ∀ i, i ∉ c.f → t.readF i = s.readF i
  c0 : ∀ i, i ∉ c.c0 → t.readC0 i = s.readC0 i
  hi : c.hi = false → t.hi = s.hi
  lo : c.lo = false → t.lo = s.lo
  llbit : c.llbit = false → t.llbit = s.llbit
  fcsr : c.fcsr = false → t.fcsr = s.fcsr
  mem : c.mem = false → ∀ a, t.mem.get a = s.mem.get a
  pi : c.pi = false → t.pi = s.pi
  fcr0 : t.fcr0 = s.fcr0
  phase : t.phase = s.phase
  cart : t.cart = s.cart
  cfg : t.cfg = s.cfg

/-- The operation is `Done`: the program counter is at the next word or, after a delay slot, at the
target of a taken branch, and the entry has left the block (40_pipeline.md R203, R206). -/
structure Done (c : Changes) (s t : State) : Prop where
  pc : t.pc = s.nextPc
  block : t.block = s.block.tail
  latch : t.latch = none
  frame : Frame c s t

/-- `exec i s` ANSWERS A NEXT STATE in which the instruction is done, changed only what `c` lists, and
left `P`. -/
def Completes (i : Instr) (s : State) (c : Changes) (P : State → Prop) : Prop :=
  ∃ t, exec i s = .next t ∧ Done c s t ∧ P t

/-- `exec i s` ANSWERS A NEXT STATE in which the instruction is done and, if `rd` is not 0, `x[rd]` is
`v`; register 0 reads as 0 and nothing else changed (10_state.md R31). -/
def CompletesWriting (i : Instr) (s : State) (rd : RegIdx) (v : Word) : Prop :=
  Completes i s { x := [rd] } fun t => t.readX rd = if rd = 0 then 0#64 else v

/-- `exec i s` ANSWERS A NEXT STATE: the control-transfer step. The program counter is at the delay slot,
which alone is left, the latch holds the outcome, and the link register, if there is one, holds the
address after the delay slot (40_pipeline.md R201, R204; 44_control_flow.md R375). -/
def CompletesTransfer (i : Instr) (s : State) (taken : Bool) (target : Word) (link : List RegIdx) :
    Prop :=
  ∃ t, exec i s = .next t ∧ t.pc = toPc s.cfg (s.pc + 4#64) ∧ t.block = s.block.tail
    ∧ t.latch = some { taken := taken, target := target, ctAddr := s.pc }
    ∧ (∀ r ∈ link, t.readX r = if r = 0 then 0#64 else toPc s.cfg (s.pc + 8#64))
    ∧ Frame { x := link } s t

/-- `exec i s` ANSWERS A NEXT STATE: the step of a likely branch that is not taken. The program counter
is past the delay slot, which is not executed, and the block is over (40_pipeline.md R205). -/
def CompletesNullifying (i : Instr) (s : State) (link : List RegIdx) : Prop :=
  ∃ t, exec i s = .next t ∧ t.pc = toPc s.cfg (s.pc + 8#64) ∧ t.block = [] ∧ t.latch = none
    ∧ (∀ r ∈ link, t.readX r = if r = 0 then 0#64 else toPc s.cfg (s.pc + 8#64))
    ∧ Frame { x := link } s t

/-- The instruction takes the exception with code `code` and coprocessor number `ce`, with none of its
own writes (60_exceptions.md R478, R480). -/
def Raises (i : Instr) (s : State) (code : BitVec 5) (ce : BitVec 2) : Prop :=
  exec i s = .next (s.enterException code ce)

/-- The answer `o` to a delay-slot operation of `s` is the exception with code `code` and coprocessor
number `ce`, and it reports the branch `b`: EPC is its address, `BD` is set, and the branch is dropped
(40_pipeline.md R210; 60_exceptions.md R480). -/
def ReportsBranch (o : Host.Outcome State Fault Refusal) (s : State) (b : PendingBranch) (code : BitVec 5)
    (ce : BitVec 2) : Prop :=
  ∃ t, o = .next t ∧ t.epc = fitWidth s.cfg.cp0Width b.ctAddr ∧ t.cause.getLsbD 31 = true
    ∧ t.cause.extractLsb' 2 5 = code ∧ t.cause.extractLsb' 28 2 = ce ∧ t.exl = true
    ∧ t.pc = toPc s.cfg (s.cfg.excVector s.bev) ∧ t.block = [] ∧ t.latch = none

/-- The instruction ends in a fatal condition: the machine is halted and nothing else changed
(60_exceptions.md R471). -/
def Halts (i : Instr) (s : State) (f : Fatal) : Prop := exec i s = .next { s with phase := .halted f }

/-! ## Where an access goes -/

/-- The address a load or a store accesses: the base register plus the displacement, in `EA_WIDTH` bits
(41_load_store.md R222; log 21). -/
def State.accessAddr (s : State) (base : RegIdx) (offset : BitVec 16) : Word :=
  fitWidth s.cfg.eaWidth (s.readX base + offset.signExtend 64)

/-- The `n` bytes at `va` are the bytes of a memory row from physical address `pa` on, and `va` is a
multiple of `n` (20_memory.md R92 to R94, R108). -/
def inMemory (cfg : Params) (va : EffAddr) (n pa : Nat) : Prop :=
  va.toNat % n = 0 ∧ physical cfg va n = some pa
    ∧ (dispatch cfg pa n = some .ram ∨ dispatch cfg pa n = some .sp)

/-- The `n` bytes at `va` are in the peripheral-interface window from physical address `pa` on, and `va`
is a multiple of `n` (20_memory.md R92, R95, R108). -/
def inWindow (cfg : Params) (va : EffAddr) (n pa : Nat) : Prop :=
  va.toNat % n = 0 ∧ physical cfg va n = some pa ∧ dispatch cfg pa n = some .pi

/-- Byte `i` from physical address `pa` of a memory row on (20_memory.md R93, R94). -/
def State.byteAt (s : State) (pa i : Nat) : Byte := s.mem.get (cellOf (pa + i))

/-- The byte at a physical address of a memory row, by the words of 20_memory.md R93 and R94. -/
def rowByte (s : State) (pa : Nat) : Byte :=
  if pa < 0x04000000 then s.ram pa
  else if (pa - 0x04000000) % 8192 < 4096 then s.dmem ((pa - 0x04000000) % 8192)
  else s.imem ((pa - 0x04000000) % 8192 - 4096)

/-- The `n` bytes from physical address `pa` of a memory row on. -/
def State.bytesAt (s : State) (pa n : Nat) : List Byte := (List.range n).map (s.byteAt pa)

/-! ## What a load and a store do -/

/-- The number that bytes form: the first byte is the most significant one, or the least significant one
(20_memory.md R104). -/
def bytesNumber : ByteOrder → List Byte → Nat
  | .big, bs => bs.foldl (fun v b => 256 * v + b.toNat) 0
  | .little, bs => bs.foldr (fun b v => b.toNat + 256 * v) 0

/-- The low `n` bytes of a register, byte `k` being bits `8k + 7` to `8k` (20_memory.md R105). -/
def registerBytes (v : Word) (n : Nat) : List Byte := (List.range n).map fun k => v.extractLsb' (8 * k) 8

/-- The three ways an access of `n` bytes at `ea` halts the machine before it begins, with nothing
changed: in the order of 20_memory.md R116. -/
def HaltsWhereNothingAnswers (i : Instr) (s : State) (ea : Word) (n : Nat) : Prop :=
  (ea.toNat % n ≠ 0 → Halts i s (.unsupportedFeature .unalignedAddress))
    ∧ (ea.toNat % n = 0 → physical s.cfg ea n = none → Halts i s (.unsupportedFeature .unmappedSegment))
    ∧ (∀ pa, ea.toNat % n = 0 → physical s.cfg ea n = some pa → dispatch s.cfg pa n = none →
        Halts i s (.memoryFault (.address pa)))

/-- What a load of `n` bytes at `ea` does, for every address: it halts, or it reads the bytes of a memory
row, or the bytes the collaborator answers; `c` lists what it writes and `P` says what it leaves, from the
bytes. -/
def Loads (i : Instr) (s : State) (ea : Word) (n : Nat) (c : Changes) (P : List Byte → State → Prop) :
    Prop :=
  HaltsWhereNothingAnswers i s ea n
    ∧ (∀ pa, inMemory s.cfg ea n pa → Completes i s c (P (s.bytesAt pa n)))
    ∧ (∀ pa, inWindow s.cfg ea n pa → Completes i s { c with pi := true } fun t =>
        t.pi = (s.pi.read pa n).2 ∧ P (s.pi.read pa n).1 t)

/-- What a load of a general register does: `value` is what the register receives, from the number the
bytes form. -/
def LoadsRegister (i : Instr) (s : State) (ea : Word) (n : Nat) (rt : RegIdx) (value : Nat → Word) :
    Prop :=
  Loads i s ea n { x := [rt] } fun bytes t =>
    t.readX rt = if rt = 0 then 0#64 else value (bytesNumber s.cfg.loadByteOrder bytes)

/-- What a store of the low `n` bytes of `v` at `ea` does, for every address: it halts, or it writes the
bytes of a memory row and no other byte, or it hands the bytes to the collaborator and performs the DMA
the collaborator answers. That the collaborator keeps the write of a store whose DMA is fatal is the model's
choice (log 11). -/
def Stores (i : Instr) (s : State) (ea : Word) (n : Nat) (v : Word) : Prop :=
  HaltsWhereNothingAnswers i s ea n
    ∧ (∀ pa, inMemory s.cfg ea n pa → Completes i s { mem := true } fun t =>
        (∀ a, (∀ k < n, a ≠ cellOf (pa + k)) → t.mem.get a = s.mem.get a)
          ∧ (s.mem.wf = true → ∀ k < n, t.byteAt pa k = v.extractLsb' (8 * k) 8))
    ∧ (∀ pa, inWindow s.cfg ea n pa →
        ((s.pi.write pa (registerBytes v n)).1 = none →
          Completes i s { pi := true } fun t => t.pi = (s.pi.write pa (registerBytes v n)).2)
        ∧ (∀ d u, (s.pi.write pa (registerBytes v n)).1 = some d →
          runDma d { s with pi := (s.pi.write pa (registerBytes v n)).2 } = .ok () u →
          Completes i s { mem := true, pi := true } fun t =>
            t.pi = (s.pi.write pa (registerBytes v n)).2 ∧ t.mem = u.mem)
        ∧ (∀ d f u, (s.pi.write pa (registerBytes v n)).1 = some d →
          runDma d { s with pi := (s.pi.write pa (registerBytes v n)).2 } = .fatal f u →
          exec i s =
            .next { s with pi := (s.pi.write pa (registerBytes v n)).2, phase := .halted f }))

/-! ## What arithmetic and branches do -/

/-- The exact result fits `bits` bits as a signed number. -/
def FitsSigned (bits : Nat) (t : Int) : Prop := -2 ^ (bits - 1) ≤ t ∧ t ≤ 2 ^ (bits - 1) - 1

/-- The exact result `t` fits `bits` bits and is written, or it does not and `Ov` is raised
(42_alu_arith_logic.md R271). -/
def WritesUnlessOverflow (i : Instr) (s : State) (rd : RegIdx) (bits : Nat) (t : Int) : Prop :=
  (FitsSigned bits t → CompletesWriting i s rd (BitVec.ofInt 64 t))
    ∧ (¬ FitsSigned bits t → Raises i s 12#5 0#2)

/-- `exec i s` ANSWERS A NEXT STATE in which the instruction is done and `HI` and `LO`, and nothing else,
have the values given. -/
def CompletesHiLo (i : Instr) (s : State) (hi lo : Word) : Prop :=
  Completes i s { hi := true, lo := true } fun t => t.hi = hi ∧ t.lo = lo

/-- The signed division of `a` by `b`: the quotient truncates toward zero and the remainder has the sign
of the dividend (43_alu_shift_muldiv.md R331). -/
def truncatedDivision (a b q r : Int) : Prop :=
  a = q * b + r ∧ r.natAbs < b.natAbs ∧ (r = 0 ∨ r.sign = a.sign)

/-- The target of a branch at the program counter: four times the displacement from the address after
the delay slot, or under the alternative from the delay slot (44_control_flow.md R372). -/
def branchTarget (s : State) (imm : BitVec 16) : Word :=
  s.pc + (match s.cfg.branchBase with | .afterDelaySlot => 8#64 | .delaySlot => 4#64)
    + 4#64 * imm.signExtend 64

/-- What a branch that is not likely does outside a delay slot: its step completes, taken or not. -/
def BranchesIf (i : Instr) (s : State) (taken : Bool) (imm : BitVec 16) (link : List RegIdx) : Prop :=
  CompletesTransfer i s taken (branchTarget s imm) link

/-- What a likely branch does outside a delay slot: taken, its delay slot is next; not taken, the delay
slot is nullified (40_pipeline.md R205). -/
def BranchesLikelyIf (i : Instr) (s : State) (taken : Bool) (imm : BitVec 16) (link : List RegIdx) : Prop :=
  (taken = true → CompletesTransfer i s true (branchTarget s imm) link)
    ∧ (taken = false → CompletesNullifying i s link)

/-- The instruction raises `Tr` when `c` holds, and otherwise is done with nothing changed
(46_system.md R434). -/
def TrapsIf (i : Instr) (s : State) (c : Prop) : Prop :=
  (c → Raises i s 13#5 0#2) ∧ (¬ c → Completes i s {} fun _ => True)

/-- The instruction the next step executes, where the next step executes one. -/
def State.current (s : State) : Option Instr :=
  match s.phase, s.block with
  | .running, e :: _ => decodeWord e.word
  | .running, [] => none
  | .reset, _ => none
  | .boot1Done, _ => none
  | .halted _, _ => none
  | .stopped, _ => none

end Sys2Proof.Machine
end

