-- ==== Sys2Proof/WellFormed.lean ====
section
/-! DEFINITION. When an IR operation is well formed (the relations of 30_encoding.md R142 to R147 that the
types do not carry), when an instruction is, and when a list of decoded words is a basic block a program
may contain (40_pipeline.md R196, R197; 70_reset_and_hazards.md R521). -/

namespace Sys2Proof

/-- The value is the sign extension of its low 16 bits (30_encoding.md R143, R147, R150). -/
def isSext16 (v : Word) : Bool := (v.extractLsb' 0 16).signExtend 64 == v

/-- The value is the zero extension of its low 16 bits (30_encoding.md R150). -/
def isZext16 (v : Word) : Bool := (v.extractLsb' 0 16).setWidth 64 == v

/-- 32 or 64 bits. -/
def Bits.isWordSize : Bits → Bool
  | .b8 => false
  | .b16 => false
  | .b32 => true
  | .b64 => true

/-- The location is a general register. -/
def DataReg.isG : DataReg → Bool
  | .g _ => true
  | .f _ => false

/-- `ext` is `S` for 64 bits, where nothing is extended (30_encoding.md R142). -/
def Width.extOk (w : Width) : Bool := w.bits != .b64 || w.ext == .s

/-- A floating-point register is moved as 32 or 64 bits (41_load_store.md R223). -/
def floatWidthOk (r : DataReg) (w : Width) : Bool := r.isG || w.bits.isWordSize

/-- Load-linked, store-conditional and unaligned forms name a general register and 32 or 64 bits, and
no form is both (41_load_store.md R232 to R237, R248 to R253). -/
def specialFormOk (r : DataReg) (w : Width) (conditional aligned : Bool) : Bool :=
  (!conditional && aligned) || ((conditional == aligned) && r.isG && w.bits.isWordSize)

/-- A based Load has a displacement extended from 16 bits; a Load that carries its value is 32 bits
wide, sign-extended, plain, and its value is an immediate placed in the upper half (30_encoding.md R143,
R150; 41_load_store.md R231). -/
def LoadOp.sourceOk (op : LoadOp) : Bool :=
  match op.source with
  | .based _ offset => isSext16 offset
  | .immediate v =>
    op.width == ⟨.b32, .s⟩ && !op.conditional && op.aligned && op.dest.isG
      && v.extractLsb' 0 16 == 0#16

/-- A well-formed Load. -/
def LoadOp.wf (op : LoadOp) : Bool :=
  op.width.extOk && floatWidthOk op.dest op.width
    && specialFormOk op.dest op.width op.conditional op.aligned && op.sourceOk

/-- `ext` is `S` for every Store (30_encoding.md R142). -/
def StoreOp.extOk (op : StoreOp) : Bool := op.width.ext == .s

/-- A well-formed Store. -/
def StoreOp.wf (op : StoreOp) : Bool :=
  op.extOk && floatWidthOk op.source op.width
    && specialFormOk op.source op.width op.conditional op.aligned && isSext16 op.offset

/-- A shift kind. -/
def AluKind.isShift : AluKind → Bool
  | .sll32 | .srl32 | .sra32 | .sll64 | .srl64 | .sra64 => true
  | .add32T | .add32 | .sub32T | .sub32 | .add64T | .add64 | .sub64T | .sub64 | .and | .or | .xor
  | .nor | .slt | .sltu | .copy => false

/-- A 32-bit shift kind. -/
def AluKind.isShift32 : AluKind → Bool
  | .sll32 | .srl32 | .sra32 => true
  | .sll64 | .srl64 | .sra64 | .add32T | .add32 | .sub32T | .sub32 | .add64T | .add64 | .sub64T
  | .sub64 | .and | .or | .xor | .nor | .slt | .sltu | .copy => false

/-- `src1` is absent exactly for the HI/LO transfer (30_encoding.md R144). -/
def AluOp.src1Ok (op : AluOp) : Bool :=
  match op.src1 with
  | none => op.kind == .copy
  | some (.reg _) => op.kind != .copy
  | some .hi | some .lo | some (.imm _) | some (.sa _) => false

/-- A constant amount stands in a shift only, 0 to 31 for the 32-bit kinds; an immediate never does
(30_encoding.md R144, R150). -/
def AluOp.src2Ok (op : AluOp) : Bool :=
  match op.src2 with
  | .sa n => op.kind.isShift && (!op.kind.isShift32 || n.ult 32#6)
  | .imm v => !op.kind.isShift && op.kind != .copy && (isSext16 v || isZext16 v)
  | .reg _ => true
  | .hi | .lo => op.kind == .copy

/-- A HI/LO transfer has exactly one general register; every other kind writes a general register
(30_encoding.md R144; 43_alu_shift_muldiv.md R358 to R361). -/
def AluOp.destOk (op : AluOp) : Bool :=
  match op.dest, op.src2 with
  | .g _, .reg _ => op.kind != .copy
  | .g _, _ => true
  | .hi, .reg _ | .lo, .reg _ => op.kind == .copy
  | .hi, _ | .lo, _ => false

/-- A well-formed ALU operation that yields one value. -/
def AluOp.wf (op : AluOp) : Bool := op.src1Ok && op.src2Ok && op.destOk

/-- A general register. -/
def Opnd.isReg : Opnd → Bool
  | .reg _ => true
  | .hi | .lo | .imm _ | .sa _ => false

/-- Multiply and divide take two general registers (43_alu_shift_muldiv.md section 4). -/
def MulDivOp.wf (op : MulDivOp) : Bool := op.src1.isReg && op.src2.isReg

/-- The condition is `Always`. -/
def Cond.isAlways : Cond → Bool
  | .always => true
  | .copTrue | .copFalse | .eq _ _ | .ne _ _ | .ltz _ | .gez _ | .lez _ | .gtz _ => false

/-- The condition is a comparison of one register with zero against sign: the conditions with a link. -/
def Cond.linkable : Cond → Bool
  | .ltz _ | .gez _ => true
  | .always | .copTrue | .copFalse | .eq _ _ | .ne _ _ | .lez _ | .gtz _ => false

/-- A relative destination is the displacement of a conditional branch, scaled from 16 bits; the other
destinations are those of the unconditional jumps (30_encoding.md R146, R150). -/
def CfOp.destinationOk (op : CfOp) : Bool :=
  match op.destination with
  | .rel o => !op.condition.isAlways && (((o.extractLsb' 2 16).signExtend 64) <<< 2 == o)
  | .abs _ => op.condition.isAlways
  | .inReg _ => op.condition.isAlways

/-- A likely form is conditional. -/
def CfOp.likelyOk (op : CfOp) : Bool := !(op.likely && op.condition.isAlways)

/-- The link register of every link form but JALR is 31 (44_control_flow.md R375). -/
def CfOp.linkOk (op : CfOp) : Bool :=
  match op.link, op.destination with
  | none, _ => true
  | some _, .inReg _ => true
  | some i, .abs _ => i == 31
  | some i, .rel _ => i == 31 && op.condition.linkable

/-- A well-formed ControlFlow operation. -/
def CfOp.wf (op : CfOp) : Bool := op.destinationOk && op.likelyOk && op.linkOk

/-- The second operand of a trap is a general register or an immediate extended from 16 bits; the
displacement of CACHE is extended from 16 bits (30_encoding.md R147, R150). -/
def SystemOp.wf : SystemOp → Bool
  | .cache _ _ offset => isSext16 offset
  | .trap _ _ (.reg _) => true
  | .trap _ _ (.imm v) => isSext16 v
  | .trap _ _ .hi | .trap _ _ .lo | .trap _ _ (.sa _) => false
  | .syscall _ | .brk _ | .sync | .tlbr | .tlbwi | .tlbwr | .tlbp | .eret => true

/-- A well-formed IR operation. -/
def IrOp.wf : IrOp → Bool
  | .load op => op.wf
  | .store op => op.wf
  | .alu op => op.wf
  | .mulDiv op => op.wf
  | .controlFlow op => op.wf
  | .move _ => true
  | .system op => op.wf
  | .malformed => true

/-- A well-formed decoder result. -/
def Decoded.wf : Decoded → Bool
  | .op o => o.wf
  | .unimplemented _ => true

/-- A well-formed instruction: its IR operation is. -/
def Instr.wf (i : Instr) : Bool := i.ir.wf

/-- What a delay slot may not hold (70_reset_and_hazards.md R521). -/
def Decoded.delaySlotOk (d : Decoded) : Bool := !d.isControlFlow && d != .op (.system .eret)

/-- The shape of a basic block: straight-line operations, one control transfer, its delay slot
(40_pipeline.md R196). -/
def blockShape : List Decoded → Bool
  | [] => false
  | [_] => false
  | [ct, _] => ct.isControlFlow
  | d :: rest => !d.isControlFlow && blockShape rest

/-- A basic block software may contain: its shape, its bound, and the placement rule for its delay slot
(40_pipeline.md R196, R197; 70_reset_and_hazards.md R521, R529). -/
def blockWf (cfg : Params) (b : List Decoded) : Bool :=
  blockShape b && decide (b.length ≤ cfg.blockScanLimit + 1)
    && (b.getLast?.map Decoded.delaySlotOk).getD false && b.all Decoded.wf

end Sys2Proof
end

