-- ==== Sys2Proof/Certificates/Slice0/Obligations.lean ====
section
/-! DEFINITION. The statements for the provers. Each says in its docstring which rules of spec/ it
formalises; the terms they share are in Safety.lean. What a register or an address holds is stated for every
width that R8 leaves open: under the default, 64 bits, it is the value itself (RegisterWidths), and how a
narrower register reads is the model's choice (log 21). That the parameters stay as they are, which every
frame says of the field `cfg`, is the model's choice too (log 5). -/

section

open Sys2Proof Sys2Proof.Machine

/-! ## Encoding -/

/-- Every instruction is well formed and is read back from its word, from its bytes whatever follows them,
and from its word as the opcode table numbers it (30_encoding.md R131 to R134, R151 to R155). -/
def Obligations.DecodeEncode : Prop :=
  ∀ i : Instr, i.wf = true ∧ decodeWord (encode i) = some i
    ∧ (∀ rest, decodeBytes (encodeBytes i ++ rest) = .instr i rest)
    ∧ decodeTableWord 32 (encode i).toNat = some i

/-- A word is an instruction exactly when the bits the instruction uses are those of its encoding: every
other bit may hold any value (30_encoding.md R156). -/
def Obligations.IgnoredBits : Prop :=
  ∀ (i : Instr) (w : InstrWord), decodeWord w = some i ↔ w &&& usedBits i = encode i

/-- The control-transfer test of the block finder holds exactly of the words that decode to a
`ControlFlow` operation (40_pipeline.md R194). -/
def Obligations.ControlTransferTest : Prop :=
  ∀ w : InstrWord, isCT w = (decodeIr w).isControlFlow

/-- A word is `Malformed` exactly when it is in the list of 30_encoding.md R157, and executing such a word
raises `RI` in every state. -/
def Obligations.ReservedWords : Prop :=
  ∀ w : InstrWord,
    (decodeIr w = .op .malformed ↔
      (w.extractLsb' 26 6 ∈
          [0x12#6, 0x13#6, 0x1C#6, 0x1D#6, 0x1E#6, 0x1F#6, 0x32#6, 0x33#6, 0x36#6, 0x3A#6, 0x3B#6, 0x3E#6]
        ∨ (w.extractLsb' 26 6 = 0x00#6 ∧ w.extractLsb' 0 6 ∈
            [0x01#6, 0x05#6, 0x0A#6, 0x0B#6, 0x0E#6, 0x15#6, 0x28#6, 0x29#6, 0x35#6, 0x37#6, 0x39#6, 0x3D#6])
        ∨ (w.extractLsb' 26 6 = 0x01#6 ∧
            (w.extractLsb' 16 5 ∈ [0x04#5, 0x05#5, 0x06#5, 0x07#5, 0x0D#5, 0x0F#5]
              ∨ 0x14 ≤ (w.extractLsb' 16 5).toNat))
        ∨ (w.extractLsb' 26 6 = 0x10#6 ∧
            (w.extractLsb' 21 5 ∈ [0x02#5, 0x03#5]
              ∨ (0x06 ≤ (w.extractLsb' 21 5).toNat ∧ (w.extractLsb' 21 5).toNat ≤ 0x0F)
              ∨ (0x10 ≤ (w.extractLsb' 21 5).toNat
                  ∧ w.extractLsb' 0 6 ∉ [0x01#6, 0x02#6, 0x06#6, 0x08#6, 0x18#6])))
        ∨ (w.extractLsb' 26 6 = 0x11#6 ∧
            (w.extractLsb' 21 5 ∈ [0x03#5, 0x07#5, 0x12#5, 0x13#5]
              ∨ (0x09 ≤ (w.extractLsb' 21 5).toNat ∧ (w.extractLsb' 21 5).toNat ≤ 0x0F)
              ∨ 0x16 ≤ (w.extractLsb' 21 5).toNat
              ∨ (w.extractLsb' 21 5 = 0x08#5 ∧ 0x04 ≤ (w.extractLsb' 16 5).toNat)))))
    ∧ (decodeIr w = .op .malformed → ∀ s : State, execWord w s = .next (s.enterException 10#5 0#2))

/-- The opcode table has 137 rows with 137 mnemonics, no word matches two of them, and a word decodes to
the instruction of the row it matches, or to none when it matches none (30_encoding.md R164). -/
def Obligations.OpcodeTable : Prop :=
  opcodeTable.length = 137 ∧ (opcodeTable.map OpcodeRow.mnemonic).Nodup
    ∧ (∀ w : InstrWord, opcodeTable.Pairwise fun r q => ¬ (r.matches w = true ∧ q.matches w = true))
    ∧ ∀ w : InstrWord, (decodeWord w).map Instr.mnemonic
        = (opcodeTable.find? fun r => r.matches w).map OpcodeRow.mnemonic

/-- The decoder properties of 30_encoding.md R160: the all-zero word, and every store-word encoding; and
seven further words, one of each family, by the maps of R131, R151, R152, R154, R155 and R157. -/
def Obligations.KnownDecodings : Prop :=
  decodeIr 0x00000000#32 = .op (.alu
      { kind := .sll32, dest := .g 0, src1 := some (.reg 0), src2 := .sa 0#6 })
    ∧ (∀ (base rt : RegIdx) (imm : BitVec 16),
        decodeIr (0x2B#6 ++ BitVec.ofFin (w := 5) base ++ BitVec.ofFin (w := 5) rt ++ imm) = .op (.store
          { width := { bits := .b32, ext := .s }, source := .g rt, base := base,
            offset := imm.signExtend 64, conditional := false, aligned := true }))
    ∧ decodeWord 0x8088FFFF#32 = some (.lb 4 8 0xFFFF#16)
    ∧ decodeWord 0x27BDFFE0#32 = some (.addiu 29 29 0xFFE0#16)
    ∧ decodeWord 0x0009513C#32 = some (.dsll32 9 10 4#5)
    ∧ decodeWord 0x0100F809#32 = some (.jalr 8 31)
    ∧ decodeWord 0x4088E000#32 = some (.mtc0 8 28)
    ∧ decodeWord 0x42000018#32 = some .eret
    ∧ decodeWord 0x70000000#32 = none

/-! ## The step -/

/-- A running machine with a block executes the word at the head of the block: the instruction it decodes
to, or, for a reserved word, the Reserved Instruction exception (40_pipeline.md R199 to R201). -/
def Obligations.StepRunsHead : Prop :=
  ∀ (s : State) (e : BlockEntry) (rest : List BlockEntry),
    s.phase = .running → s.block = e :: rest →
    (∀ i, decodeWord e.word = some i → step s = exec i s)
      ∧ (decodeWord e.word = none → step s = .next (s.enterException 10#5 0#2))

/-- A running machine without a block forms one at the program counter: entry `k` is at the program counter
plus `4k`, its word, where it lies in a memory row, is the four bytes there, the first one in bits 31 to 24,
and the step after executes what the bytes at the program counter decode to (40_pipeline.md R190, R195;
20_memory.md R103). Under a width that is not the default, what is held is the model's choice (log 21). -/
def Obligations.FormThenRun : Prop :=
  ∀ s t : State, s.phase = .running → s.block = [] → step s = .next t → t.phase = .running →
    t.pc = s.pc
      ∧ (∀ (k : Nat) (e : BlockEntry), t.block[k]? = some e →
          e.addr = wordAfter s.cfg s.pc k
            ∧ ∀ pa, inMemory s.cfg e.addr 4 pa →
                e.word = s.byteAt pa 0 ++ s.byteAt pa 1 ++ s.byteAt pa 2 ++ s.byteAt pa 3)
      ∧ ∀ pa, inMemory s.cfg s.pc 4 pa →
          (∀ i, decodeWord (s.byteAt pa 0 ++ s.byteAt pa 1 ++ s.byteAt pa 2 ++ s.byteAt pa 3) = some i →
            step t = exec i t)
          ∧ (decodeWord (s.byteAt pa 0 ++ s.byteAt pa 1 ++ s.byteAt pa 2 ++ s.byteAt pa 3) = none →
            step t = .next (t.enterException 10#5 0#2))

/-- A block the finder returns has `N + 2` entries: `N` straight-line words, one control transfer and the
word after it, at consecutive addresses; and given `N` straight-line words followed by a control-transfer
word, the finder returns exactly those and the word after (40_pipeline.md R196). It examines at most
`BLOCK_SCAN_LIMIT` words, 1024 by default: that many straight-line words are `UnboundedBlock` (R197). Under
a width that is not the default, what is held is the model's choice (log 21). -/
def Obligations.FormedBlock : Prop :=
  (∀ (start : Word) (s s' : State) (b : List BlockEntry), findBlock start s = .ok b s' →
      ∃ n, n < s.cfg.blockScanLimit ∧ b.length = n + 2
        ∧ (∀ k e, b[k]? = some e → e.addr = wordAfter s.cfg start k
            ∧ (k < n → isCT e.word = false) ∧ (k = n → isCT e.word = true)))
    ∧ (∀ (start : Word) (s : State) (word : Nat → InstrWord) (n : Nat),
        n < s.cfg.blockScanLimit →
        (∀ k ≤ n + 1, fetch (wordAfter s.cfg start k) s = .ok (word k) s) →
        (∀ k < n, isCT (word k) = false) → isCT (word n) = true →
        findBlock start s = .ok
          ((List.range (n + 2)).map fun k => ⟨wordAfter s.cfg start k, word k⟩) s)
    ∧ (∀ (start : Word) (s : State) (word : Nat → InstrWord),
        (∀ k < s.cfg.blockScanLimit, fetch (wordAfter s.cfg start k) s = .ok (word k) s
          ∧ isCT (word k) = false) →
        findBlock start s = .fatal (.unboundedBlock start) s)
    ∧ Params.defaults.blockScanLimit = 1024

/-- Forming a block changes no architectural state: the block is filled, or the machine halts at the start
of the block; the collaborator is touched only where a word of the block is in its window (40_pipeline.md
R198, R208). Under a width that is not the default, what is held is the model's choice (log 21). -/
def Obligations.FormationChangesNothing : Prop :=
  ∀ s : State, s.phase = .running → s.block = [] →
    ∃ t, step s = .next t
      ∧ ((∃ b, t = { s with block := b, pi := t.pi }) ∨ (∃ f, t = { s with pi := t.pi, phase := .halted f }))
      ∧ (t.pi ≠ s.pi → ∃ k pa, k ≤ s.cfg.blockScanLimit ∧ inWindow s.cfg (wordAfter s.cfg s.pc k) 4 pa)

/-- A running machine always takes a step, and every instruction in every state answers a next state:
there is no state in which the model stops on an instruction (70_reset_and_hazards.md R530). -/
def Obligations.RunningAlwaysSteps : Prop :=
  (∀ s : State, s.phase = .running → ∃ t, step s = .next t)
    ∧ ∀ (i : Instr) (s : State), ∃ t, exec i s = .next t

/-- A fatal condition sets the run phase and nothing else, the collaborator apart; a halted machine takes
no step, also when the host stops it (60_exceptions.md R471). A host stop leaves every other part of the
state, and a stopped machine takes no step (R498). That a halted machine answers with a fault is the
model's choice (log 1), and so are the phase of a stopped machine, its fault, and the function `hostStop`
(log 14). -/
def Obligations.HaltedAndStopped : Prop :=
  (∀ (s t : State) (f : Fatal), step s = .next t → t.phase = .halted f →
      t = { s with pi := t.pi, phase := .halted f } ∧ step t = .fault (.halted f)
        ∧ step (hostStop t) = .fault (.halted f))
    ∧ (∀ s : State, (∀ f, s.phase ≠ .halted f) →
        hostStop s = { s with phase := .stopped } ∧ step (hostStop s) = .fault .stopped)

/-! ## Memory -/

/-- An access of `n` bytes that lies in the uncached kernel window, by default 0xFFFFFFFFA0000000 to
0xFFFFFFFFBFFFFFFF, has the physical address of `va` minus the base of the window; every other access ends
in `UnmappedSegment` with nothing done (20_memory.md R83, R84). That an address below
another base fails, and that a base below 0xA0000000 gives physical addresses above 0x1FFFFFFF, are the
model's choice (log 16). -/
def Obligations.TranslateWindow : Prop :=
  (∀ (s : State) (va : Word) (n : Nat), 1 ≤ n →
    (0xFFFFFFFFA0000000 ≤ va.toNat ∧ 0xFFFFFFFF00000000 + s.cfg.kseg1Base.toNat ≤ va.toNat
        ∧ va.toNat + (n - 1) ≤ 0xFFFFFFFFBFFFFFFF →
      physical s.cfg va n = some (va.toNat - (0xFFFFFFFF00000000 + s.cfg.kseg1Base.toNat)))
    ∧ (¬ (0xFFFFFFFFA0000000 ≤ va.toNat ∧ 0xFFFFFFFF00000000 + s.cfg.kseg1Base.toNat ≤ va.toNat
        ∧ va.toNat + (n - 1) ≤ 0xFFFFFFFFBFFFFFFF) →
        ∀ bytes : List Byte, bytes.length = n →
          routerRead va n s = .fatal (.unsupportedFeature .unmappedSegment) s
            ∧ routerWrite va bytes s = .fatal (.unsupportedFeature .unmappedSegment) s))
    ∧ Params.defaults.kseg1Base = 0xA0000000#32

/-- Physical accesses by the dispatch table: RAM, the coprocessor memory with its mirror every 8 KiB, the
collaborator, and `MemoryFault` elsewhere and for an access that leaves its row (20_memory.md R90, R92 to
R96). A write changes the bytes written, at their addresses and at their mirrors (where two written bytes
fall on one byte, the later one stays), and no other byte. RAM is the whole row by default; that the rest
of the row is not backed under a smaller `RAM_SIZE` is the model's choice (log 16). -/
def Obligations.PhysicalAccess : Prop :=
  (∀ (s : State) (pa n : Nat), 1 ≤ n →
    ((pa + n ≤ s.cfg.ramSize.val ∨ (0x04000000 ≤ pa ∧ pa + n ≤ 0x04040000)) →
      physRead pa n s = .ok ((List.range n).map fun i => rowByte s (pa + i)) s)
    ∧ (0x04600000 ≤ pa ∧ pa + n ≤ 0x04700000 →
      physRead pa n s = .ok (s.pi.read pa n).1 { s with pi := (s.pi.read pa n).2 })
    ∧ (¬ pa + n ≤ s.cfg.ramSize.val → ¬ (0x04000000 ≤ pa ∧ pa + n ≤ 0x04040000) →
      ¬ (0x04600000 ≤ pa ∧ pa + n ≤ 0x04700000) →
      physRead pa n s = .fatal (.memoryFault (.address pa)) s))
    ∧ (∀ (s : State) (i : Nat), i ≤ 0x3FFFF →
      physRead (0x04000000 + i) 1 s = physRead (0x04000000 + i % 8192) 1 s)
    ∧ (∀ (s : State) (pa : Nat) (bytes : List Byte), 1 ≤ bytes.length →
      (pa + bytes.length ≤ s.cfg.ramSize.val → s.mem.wf = true →
        ∃ t, physWrite pa bytes s = .ok none t ∧ t = { s with mem := t.mem }
          ∧ (∀ i < bytes.length, bytes[i]? = some (t.ram (pa + i)))
          ∧ ∀ a, (a < pa ∨ pa + bytes.length ≤ a) → a ≤ 0x0403FFFF → rowByte t a = rowByte s a)
      ∧ (0x04000000 ≤ pa → pa + bytes.length ≤ 0x04040000 → s.mem.wf = true →
        ∃ t, physWrite pa bytes s = .ok none t ∧ t = { s with mem := t.mem }
          ∧ (∀ i < bytes.length, (∀ j < bytes.length, i < j → (pa + j) % 8192 ≠ (pa + i) % 8192) →
              ∀ a, 0x04000000 ≤ a → a ≤ 0x0403FFFF → a % 8192 = (pa + i) % 8192 →
                bytes[i]? = some (rowByte t a))
          ∧ ∀ a ≤ 0x0403FFFF, (a < 0x04000000 ∨ ∀ i < bytes.length, a % 8192 ≠ (pa + i) % 8192) →
              rowByte t a = rowByte s a)
      ∧ (0x04600000 ≤ pa → pa + bytes.length ≤ 0x04700000 →
        physWrite pa bytes s = .ok (s.pi.write pa bytes).1 { s with pi := (s.pi.write pa bytes).2 })
      ∧ (¬ pa + bytes.length ≤ s.cfg.ramSize.val → ¬ (0x04000000 ≤ pa ∧ pa + bytes.length ≤ 0x04040000) →
        ¬ (0x04600000 ≤ pa ∧ pa + bytes.length ≤ 0x04700000) →
        physWrite pa bytes s = .fatal (.memoryFault (.address pa)) s))
    ∧ Params.defaults.ramSize.val = 0x04000000

/-- A DMA from the cartridge to RAM copies exactly `length` bytes and no other byte changes; one that
leaves the cartridge image or RAM is fatal before the first byte; one from RAM to the cartridge changes
nothing; one with both or neither side in cartridge space is fatal (20_memory.md R100, R101). The example
of R102: source the cartridge-ROM base plus 0x40, destination 0, length 0x100 leaves RAM bytes 0 to 0xFF
equal to cartridge bytes 0x40 to 0x13F. The base is the parameter `CART_ROM_BASE`, and RAM ends at
`RAM_SIZE` (R97; log 16). -/
def Obligations.DmaCopies : Prop :=
  (∀ (d : DmaDescriptor) (s : State),
    (s.cfg.cartRomBase.toNat ≤ d.source.toNat → d.destination.toNat < s.cfg.cartRomBase.toNat →
      (s.cart.length < d.source.toNat - s.cfg.cartRomBase.toNat + d.length.toNat →
        runDma d s = .fatal (.memoryFault .dmaCartRange) s)
      ∧ (d.source.toNat - s.cfg.cartRomBase.toNat + d.length.toNat ≤ s.cart.length →
        s.cfg.ramSize.val < d.destination.toNat + d.length.toNat →
        runDma d s = .fatal (.memoryFault .dmaRamRange) s)
      ∧ (d.source.toNat - s.cfg.cartRomBase.toNat + d.length.toNat ≤ s.cart.length →
        d.destination.toNat + d.length.toNat ≤ s.cfg.ramSize.val → s.mem.wf = true →
        ∃ t, runDma d s = .ok () t ∧ t = { s with mem := t.mem }
          ∧ (∀ i < d.length.toNat, s.cart[d.source.toNat - s.cfg.cartRomBase.toNat + i]?
              = some (t.ram (d.destination.toNat + i)))
          ∧ ∀ a, (a < d.destination.toNat ∨ d.destination.toNat + d.length.toNat ≤ a) →
              t.mem.get a = s.mem.get a))
    ∧ (d.source.toNat < s.cfg.cartRomBase.toNat → s.cfg.cartRomBase.toNat ≤ d.destination.toNat →
      (s.cfg.ramSize.val < d.source.toNat + d.length.toNat →
        runDma d s = .fatal (.memoryFault .dmaRamRange) s)
      ∧ (d.source.toNat + d.length.toNat ≤ s.cfg.ramSize.val → runDma d s = .ok () s))
    ∧ (s.cfg.cartRomBase.toNat ≤ d.source.toNat → s.cfg.cartRomBase.toNat ≤ d.destination.toNat →
      runDma d s = .fatal (.unsupportedFeature .dmaDirection) s)
    ∧ (d.source.toNat < s.cfg.cartRomBase.toNat → d.destination.toNat < s.cfg.cartRomBase.toNat →
      runDma d s = .fatal (.unsupportedFeature .dmaDirection) s))
    ∧ (∀ s : State, 0x140 ≤ s.cart.length → s.mem.wf = true → 0 < s.cfg.cartRomBase.toNat →
      s.cfg.cartRomBase.toNat + 0x40 < 2 ^ 32 → 0x100 ≤ s.cfg.ramSize.val →
      ∃ t, runDma { source := s.cfg.cartRomBase + 0x40#32, destination := 0#32, length := 0x100#32 } s
          = .ok () t
        ∧ ∀ i < 0x100, s.cart[0x40 + i]? = some (t.ram i))
    ∧ Params.defaults.cartRomBase = 0x10000000#32 ∧ Params.defaults.ramSize.val = 0x04000000

/-- A value stored and loaded back, for every value and every width, in a memory row: the bytes in memory
are those of the value, the least significant one first, and a load of the same or a narrower width at an
aligned place inside sees the number its bytes form in the load order (20_memory.md R104, R105, R107). So
in the big-endian order a value comes back with its bytes reversed, in the other order unchanged. -/
def Obligations.StoreThenLoad : Prop :=
  (∀ (s : State) (a : Word) (n pa : Nat) (v : Word), n ∈ [1, 2, 4, 8] → inMemory s.cfg a n pa →
    s.mem.wf = true →
    ∃ t, memWrite a n v s = .ok () t ∧ t = { s with mem := t.mem }
      ∧ (∀ k < n, rowByte t (pa + k) = v.extractLsb' (8 * k) 8)
      ∧ (∀ m ∈ [1, 2, 4, 8], ∀ k, k % m = 0 → k + m ≤ n →
        memRead (a + BitVec.ofNat 64 k) m t = .ok (BitVec.ofNat 64
          (bytesNumber s.cfg.loadByteOrder ((List.range m).map fun j => v.extractLsb' (8 * (k + j)) 8))) t)
      ∧ (s.cfg.loadByteOrder = .little →
        memRead a n t = .ok (BitVec.ofNat 64 (v.toNat % 256 ^ n)) t)
      ∧ (s.cfg.loadByteOrder = .big →
        (n = 2 → memRead a 2 t = .ok ((v.extractLsb' 0 8 ++ v.extractLsb' 8 8).setWidth 64) t)
        ∧ (n = 4 → memRead a 4 t = .ok ((v.extractLsb' 0 8 ++ v.extractLsb' 8 8 ++ v.extractLsb' 16 8
            ++ v.extractLsb' 24 8).setWidth 64) t)
        ∧ (n = 8 → memRead a 8 t = .ok (v.extractLsb' 0 8 ++ v.extractLsb' 8 8 ++ v.extractLsb' 16 8
            ++ v.extractLsb' 24 8 ++ v.extractLsb' 32 8 ++ v.extractLsb' 40 8 ++ v.extractLsb' 48 8
            ++ v.extractLsb' 56 8) t)))
    ∧ ∀ (s : State) (a : Word) (pa : Nat), inMemory s.cfg a 4 pa → s.mem.wf = true →
      ∃ t, memWrite a 4 0x11223344#64 s = .ok () t
        ∧ (s.cfg.loadByteOrder = .big →
          memRead a 4 t = .ok 0x44332211#64 t ∧ memRead a 2 t = .ok 0x4433#64 t
            ∧ memRead (a + 2#64) 2 t = .ok 0x2211#64 t ∧ memRead a 1 t = .ok 0x44#64 t
            ∧ memRead (a + 3#64) 1 t = .ok 0x11#64 t)
        ∧ (s.cfg.loadByteOrder = .little →
          memRead a 4 t = .ok 0x11223344#64 t ∧ memRead a 2 t = .ok 0x3344#64 t
            ∧ memRead a 1 t = .ok 0x44#64 t)

/-! ## Invariants and whole-machine rules -/

/-- Every step keeps the canonical form of memory, and memory holds only bytes that exist: RAM, DMEM and
IMEM (10_state.md R59, R60). -/
def Obligations.StepKeepsMemoryForm : Prop :=
  ∀ s t : State, s.memoryOk → step s = .next t → t.memoryOk

/-- Every step keeps every reserved, constant and read-only bit of the control registers at its fixed value:
reserved bits never become general storage (10_state.md R40 to R47, R52, R53; 45_move.md R420). That the
bits a narrower slot lacks are 0 is the model's choice (log 21). -/
def Obligations.StepKeepsReservedBits : Prop :=
  ∀ s t : State, s.controlOk → step s = .next t → t.controlOk

/-- Every step keeps the discipline of blocks: the rest of a block starts at the program counter, is
straight-line up to its control transfer and delay slot, and the latch is held exactly while the delay slot,
at the word after the control transfer, is what is left (10_state.md R66, R67; 40_pipeline.md R196, R201).
Under a width that is not the default, what is held is the model's choice (log 21). -/
def Obligations.StepKeepsBlockDiscipline : Prop :=
  ∀ s t : State, s.sequenceOk → step s = .next t → t.sequenceOk

/-- Every step keeps the program counter and the floating-point registers at values of their widths, and
the bits that a narrower system-control slot lacks are 0 by StepKeepsReservedBits (00_scope.md R8; 10_state.md
R34, R51). At the default widths it says nothing; for the others it is the model's (log 21). -/
def Obligations.StepKeepsWidths : Prop :=
  ∀ s t : State, s.widthsOk → step s = .next t → t.widthsOk

/-- The load-linked flag stays 0, and no step changes the cartridge or the read-only `fcr[0]` (10_state.md
R39, R52, R62). The last clause is the model's choice: the parameters of R8 are a record in State, and no step
changes it (log 5). -/
def Obligations.StepKeepsFixedState : Prop :=
  ∀ s t : State, step s = .next t →
    (s.llbitOk → t.llbitOk) ∧ t.cart = s.cart ∧ t.fcr0 = s.fcr0 ∧ t.cfg = s.cfg

/-- The state after reset is that of the table of 10_state.md R71, first under the defaults, then with a
cartridge, a collaborator and parameters attached. The values are those the spec chose (log 7), and that
memory nothing has written reads as zero is its default for `INIT_RAM` and `INIT_IMEM`, here for the bytes
their lists do not give (log 8, the model's choice). -/
def Obligations.ResetState : Prop :=
  ((∀ i, State.reset.readX i = 0#64) ∧ State.reset.pc = 0#64
    ∧ State.reset.hi = 0#64 ∧ State.reset.lo = 0#64 ∧ State.reset.llbit = false
    ∧ (∀ i, State.reset.readF i = 0#64) ∧ State.reset.readFcr 0 = some 0x0B00#64
    ∧ State.reset.readFcr 31 = some 0#64
    ∧ (∀ i : RegIdx, State.reset.readC0 i
        = if i = 15 then 0x0B22#64 else if i = 16 then 0x00066460#64 else 0#64)
    ∧ (∀ i, State.reset.ram i = 0#8) ∧ (∀ i, State.reset.dmem i = 0#8) ∧ (∀ i, State.reset.imem i = 0#8)
    ∧ State.reset.block = [] ∧ State.reset.latch = none ∧ State.reset.phase = .reset
    ∧ State.reset = hostReset [] (.oracle 0) Params.defaults)
    ∧ ∀ (cart : List Byte) (pi : Peripheral) (cfg : Params),
      ∃ s, hostReset cart pi cfg = s
        ∧ s = { State.reset with fcr0 := s.fcr0, c0 := s.c0, mem := s.mem, cart := cart, pi := pi, cfg := cfg }
        ∧ s.readFcr 0 = some (cfg.fcr0Value.setWidth 64)
        ∧ (∀ i : RegIdx, s.readC0 i
            = if i = 15 then cfg.pridValue.setWidth 64 else if i = 16 then 0x00066460#64 else 0#64)
        ∧ (∀ i < cfg.ramSize.val, s.ram i = cfg.initRam.getD i 0#8)
        ∧ (∀ i < 4096, s.dmem i = 0#8) ∧ ∀ i < 4096, s.imem i = cfg.initImem.getD i 0#8

/-- The state after reset meets every invariant of the model, whatever is attached to the block. -/
def Obligations.ResetMeetsInvariants : Prop :=
  ∀ (cart : List Byte) (pi : Peripheral) (cfg : Params),
    State.reset.memoryOk ∧ State.reset.controlOk ∧ State.reset.llbitOk ∧ State.reset.sequenceOk
      ∧ State.reset.widthsOk ∧ (hostReset cart pi cfg).memoryOk ∧ (hostReset cart pi cfg).controlOk
      ∧ (hostReset cart pi cfg).llbitOk ∧ (hostReset cart pi cfg).sequenceOk
      ∧ (hostReset cart pi cfg).widthsOk

/-- The four widths that R8 leaves open are 64 bits by default, and a register of that width holds what is
written (00_scope.md R8). A narrower register holds the low bits of what is written and reads as 64 bits by
the sign of what it holds, which is the model's choice (log 21). -/
def Obligations.RegisterWidths : Prop :=
  (Params.defaults.pcWidth = .full ∧ Params.defaults.eaWidth = .full ∧ Params.defaults.fprWidth = .full
    ∧ Params.defaults.cp0Width = .full ∧ RegWidth.full.bits = 64)
    ∧ (∀ v : Word, fitWidth .full v = v)
    ∧ ∀ (w : RegWidth) (v : Word) (k : Nat), k < 64 →
      (fitWidth w v).getLsbD k = v.getLsbD (min k (w.bits - 1))

/-- Register 0 reads as 0 and a write of it is discarded, although storage contains the slot: what the slot
holds influences no step, and no step changes it (10_state.md R31). -/
def Obligations.RegisterZero : Prop :=
  (∀ s : State, s.readX 0 = 0#64) ∧ (∀ (s : State) (v : Word), s.writeX 0 v = s)
    ∧ (∀ s t : State, step s = .next t → t.x[0] = s.x[0])
    ∧ ∀ (s : State) (v : Word), step { s with x := s.x.set 0 v } =
        match step s with
        | .next t => .next { t with x := t.x.set 0 v }
        | .fault f => .fault f
        | .refused r => .refused r

/-- Memory changes only in boot stage two and in the stores (10_state.md R59, R60). -/
def Obligations.OnlyStoresWriteMemory : Prop :=
  ∀ s t : State, step s = .next t → t.mem ≠ s.mem →
    s.phase = .boot1Done ∨ ∃ (base rt : RegIdx) (offset : BitVec 16),
      s.current = some (.sb base rt offset) ∨ s.current = some (.sh base rt offset)
        ∨ s.current = some (.sw base rt offset) ∨ s.current = some (.sd base rt offset)
        ∨ s.current = some (.swc1 base rt offset) ∨ s.current = some (.sdc1 base rt offset)

/-- Who writes what: `FCSR`, and so the condition bit, only `CTC1`; a floating-point register only `LWC1`,
`LDC1`, `MTC1`, `DMTC1`; `HI` and `LO` only the multiplies, the divides, `MTHI` and `MTLO`; a
system-control register only `MTC0`, `DMTC0`, `ERET`, boot stage one and exception entry (10_state.md R38,
R49, R51, R55). -/
def Obligations.WhoWritesRegisters : Prop :=
  ∀ s t : State, step s = .next t →
    (t.fcsr ≠ s.fcsr → ∃ rt, s.current = some (.ctc1 rt 31))
    ∧ (t.f ≠ s.f → ∃ (a b : RegIdx) (imm : BitVec 16),
        s.current = some (.lwc1 a b imm) ∨ s.current = some (.ldc1 a b imm)
          ∨ s.current = some (.mtc1 a b) ∨ s.current = some (.dmtc1 a b))
    ∧ ((t.hi ≠ s.hi ∨ t.lo ≠ s.lo) → ∃ a b : RegIdx,
        s.current = some (.mult a b) ∨ s.current = some (.multu a b) ∨ s.current = some (.div a b)
          ∨ s.current = some (.divu a b) ∨ s.current = some (.dmult a b) ∨ s.current = some (.dmultu a b)
          ∨ s.current = some (.ddiv a b) ∨ s.current = some (.ddivu a b)
          ∨ s.current = some (.mthi a) ∨ s.current = some (.mtlo a))
    ∧ (t.c0 ≠ s.c0 → s.phase = .reset ∨ s.current = some .eret
        ∨ (∃ a b : RegIdx, s.current = some (.mtc0 a b) ∨ s.current = some (.dmtc0 a b))
        ∨ ∃ code ce, t = s.enterException code ce)

/-! ## Exceptions -/

/-- Exception entry: where `EXL` is 0, EPC is the address of the branch and `BD` is set in a delay slot,
else EPC is the address of the instruction and `BD` is clear; where `EXL` is 1, both keep their values.
`ExcCode`, `CE` and `EXL` are written, the program counter is at the vector `BEV` selects, the latch and the
block are dropped, and nothing else changes (60_exceptions.md R480, R481). Under a width that is not the
default, what is held is the model's choice (log 21). -/
def Obligations.ExceptionEntry : Prop :=
  ∀ (s : State) (code : BitVec 5) (ce : BitVec 2),
    (s.exl = false → s.latch = none →
      (s.enterException code ce).epc = fitWidth s.cfg.cp0Width s.pc
        ∧ (s.enterException code ce).cause.getLsbD 31 = false)
    ∧ (s.exl = false → ∀ b, s.latch = some b →
      (s.enterException code ce).epc = fitWidth s.cfg.cp0Width b.ctAddr
        ∧ (s.enterException code ce).cause.getLsbD 31 = true)
    ∧ (s.exl = true → (s.enterException code ce).epc = s.epc
      ∧ (s.enterException code ce).cause.getLsbD 31 = s.cause.getLsbD 31)
    ∧ (s.enterException code ce).cause.extractLsb' 2 5 = code
    ∧ (s.enterException code ce).cause.extractLsb' 28 2 = ce
    ∧ (∀ k, k ≠ 31 → ¬ (2 ≤ k ∧ k ≤ 6) → ¬ (28 ≤ k ∧ k ≤ 29) →
      (s.enterException code ce).cause.getLsbD k = s.cause.getLsbD k)
    ∧ (s.enterException code ce).exl = true
    ∧ (∀ k, k ≠ 1 → (s.enterException code ce).status.getLsbD k = s.status.getLsbD k)
    ∧ (s.bev = false → (s.enterException code ce).pc = toPc s.cfg s.cfg.excVector0)
    ∧ (s.bev = true → (s.enterException code ce).pc = toPc s.cfg s.cfg.excVector1)
    ∧ Params.defaults.excVector0 = 0xFFFFFFFF80000180#64 ∧ Params.defaults.excVector1 = 0xFFFFFFFFBFC00380#64
    ∧ (s.enterException code ce).block = [] ∧ (s.enterException code ce).latch = none
    ∧ (∀ i : RegIdx, i ≠ 12 → i ≠ 13 → i ≠ 14 → (s.enterException code ce).readC0 i = s.readC0 i)
    ∧ s.enterException code ce = { s with
        pc := (s.enterException code ce).pc, c0 := (s.enterException code ce).c0, block := [], latch := none }

/-- After every exception the next step, which forms a block at the vector, halts the machine with
everything as the entry left it, where the vectors and the base of the window are R8's defaults and the scan
may examine a word (60_exceptions.md R482). Under a width that is not the default, what is held is the
model's choice (log 21). -/
def Obligations.ExceptionThenHalt : Prop :=
  ∀ (s : State) (code : BitVec 5) (ce : BitVec 2), s.phase = .running → 0 < s.cfg.blockScanLimit →
    (s.bev = false → s.cfg.excVector0 = 0xFFFFFFFF80000180#64 → step (s.enterException code ce) =
      .next { s.enterException code ce with phase := .halted (.unsupportedFeature .unmappedSegment) })
    ∧ (s.bev = true → s.cfg.excVector1 = 0xFFFFFFFFBFC00380#64 → s.cfg.kseg1Base = 0xA0000000#32 →
      step (s.enterException code ce) =
      .next { s.enterException code ce with phase := .halted (.memoryFault (.address 0x1FC00380)) })

/-- `SYSCALL` and `BREAK` take their exception in every state; `CACHE` and `SYNC` complete in every state
with nothing changed (46_system.md R430 to R433). -/
def Obligations.SystemOperations : Prop :=
  ∀ s : State, (∀ code, Raises (.syscall code) s 8#5 0#2) ∧ (∀ code, Raises (.brk code) s 9#5 0#2)
    ∧ (∀ base cop offset, Completes (.cache base cop offset) s {} fun _ => True)
    ∧ Completes .sync s {} fun _ => True

/-- The traps on two registers: `Tr` exactly when the 64-bit comparison holds, else nothing
(46_system.md R434 to R440). -/
def Obligations.RegisterTraps : Prop :=
  ∀ (s : State) (rs rt : RegIdx),
    TrapsIf (.tge rs rt) s ((s.readX rs).toInt ≥ (s.readX rt).toInt)
    ∧ TrapsIf (.tgeu rs rt) s ((s.readX rs).toNat ≥ (s.readX rt).toNat)
    ∧ TrapsIf (.tlt rs rt) s ((s.readX rs).toInt < (s.readX rt).toInt)
    ∧ TrapsIf (.tltu rs rt) s ((s.readX rs).toNat < (s.readX rt).toNat)
    ∧ TrapsIf (.teq rs rt) s (s.readX rs = s.readX rt)
    ∧ TrapsIf (.tne rs rt) s (s.readX rs ≠ s.readX rt)

/-- The traps on a register and an immediate, which is sign-extended also for the unsigned comparisons
(46_system.md R434, R441 to R446). -/
def Obligations.ImmediateTraps : Prop :=
  ∀ (s : State) (rs : RegIdx) (imm : BitVec 16),
    TrapsIf (.tgei rs imm) s ((s.readX rs).toInt ≥ imm.toInt)
    ∧ TrapsIf (.tgeiu rs imm) s ((s.readX rs).toNat ≥ (imm.signExtend 64).toNat)
    ∧ TrapsIf (.tlti rs imm) s ((s.readX rs).toInt < imm.toInt)
    ∧ TrapsIf (.tltiu rs imm) s ((s.readX rs).toNat < (imm.signExtend 64).toNat)
    ∧ TrapsIf (.teqi rs imm) s (s.readX rs = imm.signExtend 64)
    ∧ TrapsIf (.tnei rs imm) s (s.readX rs ≠ imm.signExtend 64)

/-- With `CU1` = 0 every instruction that names coprocessor 1 raises `CpU` with `CE` = 1 (a branch
outside a delay slot, where it is fatal); coprocessor 2 and 3 words raise `RI`; after boot stage one `CU1`
is that of `BOOT_STATUS`, by default 1 (60_exceptions.md R477; the coprocessor-0 transfers complete in every
state by Cop0Moves). -/
def Obligations.CoprocessorUnusable : Prop :=
  (∀ s : State, s.cu1 = false → ∀ (a b : RegIdx) (imm : BitVec 16),
      Raises (.lwc1 a b imm) s 11#5 1#2 ∧ Raises (.ldc1 a b imm) s 11#5 1#2
      ∧ Raises (.swc1 a b imm) s 11#5 1#2 ∧ Raises (.sdc1 a b imm) s 11#5 1#2
      ∧ Raises (.mfc1 a b) s 11#5 1#2 ∧ Raises (.dmfc1 a b) s 11#5 1#2
      ∧ Raises (.mtc1 a b) s 11#5 1#2 ∧ Raises (.dmtc1 a b) s 11#5 1#2
      ∧ Raises (.cfc1 a b) s 11#5 1#2 ∧ Raises (.ctc1 a b) s 11#5 1#2
      ∧ (s.latch = none → Raises (.bc1f imm) s 11#5 1#2 ∧ Raises (.bc1t imm) s 11#5 1#2
        ∧ Raises (.bc1fl imm) s 11#5 1#2 ∧ Raises (.bc1tl imm) s 11#5 1#2))
    ∧ (∀ (w : InstrWord) (s : State), w.extractLsb' 26 6 = 0x12#6 ∨ w.extractLsb' 26 6 = 0x13#6 →
      execWord w s = .next (s.enterException 10#5 0#2))
    ∧ (∀ s : State, (bootStage1 s).cu1 = s.cfg.bootStatus.getLsbD 29)
    ∧ Params.defaults.bootStatus.getLsbD 29 = true

/-- `ERET` outside a delay slot: with `ERL` = 1 the program counter is ErrorEPC and `ERL` is cleared, else
it is EPC and `EXL` is cleared; the load-linked flag is cleared, the block is left, and nothing else changes
(46_system.md R454). Under a width that is not the default, what is held is the model's choice (log 21). -/
def Obligations.ExceptionReturn : Prop :=
  ∀ s : State, s.latch = none →
    ∃ t, exec .eret s = .next t ∧ t = { s with pc := t.pc, c0 := t.c0, llbit := false, block := [] }
      ∧ (∀ i : RegIdx, i ≠ 12 → t.readC0 i = s.readC0 i)
      ∧ (s.erl = true → t.pc = toPc s.cfg s.errorEpc ∧ t.erl = false
          ∧ ∀ k, k ≠ 2 → t.status.getLsbD k = s.status.getLsbD k)
      ∧ (s.erl = false → t.pc = toPc s.cfg s.epc ∧ t.exl = false
          ∧ ∀ k, k ≠ 1 → t.status.getLsbD k = s.status.getLsbD k)

/-- A control transfer or an `ERET` that is about to execute in a delay slot halts the machine with nothing
changed (40_pipeline.md R209). Every exception in a delay slot, with `EXL` 0, reports the branch and sets
`BD` (R210): whatever an instruction raises, and by name a reserved word, `SYSCALL`, `BREAK`, the traps that
fire, the additions and subtractions that overflow, and coprocessor-1 operations with `CU1` = 0. Under a
width that is not the default, what is held is the model's choice (log 21). -/
def Obligations.DelaySlotTransfer : Prop :=
  ∀ (s : State) (b : PendingBranch), s.latch = some b →
    (∀ w, (decodeIr w).isControlFlow = true ∨ decodeWord w = some .eret →
      execWord w s = .next { s with phase := .halted (.unsupportedFeature .delaySlotTransfer) })
    ∧ (s.exl = false →
      (∀ i code ce, Raises i s code ce → ReportsBranch (exec i s) s b code ce)
      ∧ (∀ w, decodeWord w = none → ReportsBranch (execWord w s) s b 10#5 0#2)
      ∧ (∀ code, ReportsBranch (exec (.syscall code) s) s b 8#5 0#2
          ∧ ReportsBranch (exec (.brk code) s) s b 9#5 0#2)
      ∧ ∀ (rs rt rd : RegIdx) (imm : BitVec 16),
        ((s.readX rs).toInt ≥ (s.readX rt).toInt → ReportsBranch (exec (.tge rs rt) s) s b 13#5 0#2)
        ∧ ((s.readX rs).toNat ≥ (s.readX rt).toNat → ReportsBranch (exec (.tgeu rs rt) s) s b 13#5 0#2)
        ∧ ((s.readX rs).toInt < (s.readX rt).toInt → ReportsBranch (exec (.tlt rs rt) s) s b 13#5 0#2)
        ∧ ((s.readX rs).toNat < (s.readX rt).toNat → ReportsBranch (exec (.tltu rs rt) s) s b 13#5 0#2)
        ∧ (s.readX rs = s.readX rt → ReportsBranch (exec (.teq rs rt) s) s b 13#5 0#2)
        ∧ (s.readX rs ≠ s.readX rt → ReportsBranch (exec (.tne rs rt) s) s b 13#5 0#2)
        ∧ ((s.readX rs).toInt ≥ imm.toInt → ReportsBranch (exec (.tgei rs imm) s) s b 13#5 0#2)
        ∧ ((s.readX rs).toNat ≥ (imm.signExtend 64).toNat →
          ReportsBranch (exec (.tgeiu rs imm) s) s b 13#5 0#2)
        ∧ ((s.readX rs).toInt < imm.toInt → ReportsBranch (exec (.tlti rs imm) s) s b 13#5 0#2)
        ∧ ((s.readX rs).toNat < (imm.signExtend 64).toNat →
          ReportsBranch (exec (.tltiu rs imm) s) s b 13#5 0#2)
        ∧ (s.readX rs = imm.signExtend 64 → ReportsBranch (exec (.teqi rs imm) s) s b 13#5 0#2)
        ∧ (s.readX rs ≠ imm.signExtend 64 → ReportsBranch (exec (.tnei rs imm) s) s b 13#5 0#2)
        ∧ (¬ FitsSigned 32 (((s.readX rs).extractLsb' 0 32).toInt + imm.toInt) →
          ReportsBranch (exec (.addi rs rt imm) s) s b 12#5 0#2)
        ∧ (¬ FitsSigned 32 (((s.readX rs).extractLsb' 0 32).toInt + ((s.readX rt).extractLsb' 0 32).toInt) →
          ReportsBranch (exec (.add rs rt rd) s) s b 12#5 0#2)
        ∧ (¬ FitsSigned 32 (((s.readX rs).extractLsb' 0 32).toInt - ((s.readX rt).extractLsb' 0 32).toInt) →
          ReportsBranch (exec (.sub rs rt rd) s) s b 12#5 0#2)
        ∧ (¬ FitsSigned 64 ((s.readX rs).toInt + imm.toInt) →
          ReportsBranch (exec (.daddi rs rt imm) s) s b 12#5 0#2)
        ∧ (¬ FitsSigned 64 ((s.readX rs).toInt + (s.readX rt).toInt) →
          ReportsBranch (exec (.dadd rs rt rd) s) s b 12#5 0#2)
        ∧ (¬ FitsSigned 64 ((s.readX rs).toInt - (s.readX rt).toInt) →
          ReportsBranch (exec (.dsub rs rt rd) s) s b 12#5 0#2)
        ∧ (s.cu1 = false →
          ReportsBranch (exec (.lwc1 rs rt imm) s) s b 11#5 1#2
          ∧ ReportsBranch (exec (.ldc1 rs rt imm) s) s b 11#5 1#2
          ∧ ReportsBranch (exec (.swc1 rs rt imm) s) s b 11#5 1#2
          ∧ ReportsBranch (exec (.sdc1 rs rt imm) s) s b 11#5 1#2
          ∧ ReportsBranch (exec (.mfc1 rt rd) s) s b 11#5 1#2
          ∧ ReportsBranch (exec (.dmfc1 rt rd) s) s b 11#5 1#2
          ∧ ReportsBranch (exec (.mtc1 rt rd) s) s b 11#5 1#2
          ∧ ReportsBranch (exec (.dmtc1 rt rd) s) s b 11#5 1#2
          ∧ ReportsBranch (exec (.cfc1 rt rd) s) s b 11#5 1#2
          ∧ ReportsBranch (exec (.ctc1 rt rd) s) s b 11#5 1#2))

/-! ## Loads and stores -/

/-- The integer loads, for every address: what the register receives is the number the bytes form, signed or
unsigned (41_load_store.md R220, R222, R224 to R230). Under a width that is not the default, what is held is
the model's choice (log 21). -/
def Obligations.IntegerLoads : Prop :=
  ∀ (s : State) (base rt : RegIdx) (offset : BitVec 16),
    LoadsRegister (.lb base rt offset) s (s.accessAddr base offset) 1 rt
      (fun v => (BitVec.ofNat 8 v).signExtend 64)
    ∧ LoadsRegister (.lbu base rt offset) s (s.accessAddr base offset) 1 rt (BitVec.ofNat 64)
    ∧ LoadsRegister (.lh base rt offset) s (s.accessAddr base offset) 2 rt
      (fun v => (BitVec.ofNat 16 v).signExtend 64)
    ∧ LoadsRegister (.lhu base rt offset) s (s.accessAddr base offset) 2 rt (BitVec.ofNat 64)
    ∧ LoadsRegister (.lw base rt offset) s (s.accessAddr base offset) 4 rt
      (fun v => (BitVec.ofNat 32 v).signExtend 64)
    ∧ LoadsRegister (.lwu base rt offset) s (s.accessAddr base offset) 4 rt (BitVec.ofNat 64)
    ∧ LoadsRegister (.ld base rt offset) s (s.accessAddr base offset) 8 rt (BitVec.ofNat 64)

/-- The floating-point loads and stores with `CU1` = 1, for every address: `LWC1` keeps the upper half of
the register, `LDC1` writes all of it, and the stores store the low 32 or all bits (41_load_store.md R223,
R238, R239, R246, R247). Where a store completes a DMA that is fatal, the collaborator keeps the write: this
clause is the model's choice (log 11). Under a width that is not the default, what is held is the model's
choice (log 21). -/
def Obligations.FloatLoadsAndStores : Prop :=
  ∀ (s : State) (base ft : RegIdx) (offset : BitVec 16), s.cu1 = true →
    Loads (.lwc1 base ft offset) s (s.accessAddr base offset) 4 { f := [ft] }
      (fun bytes t => t.readF ft = fitWidth s.cfg.fprWidth ((s.readF ft).extractLsb' 32 32
        ++ BitVec.ofNat 32 (bytesNumber s.cfg.loadByteOrder bytes)))
    ∧ Loads (.ldc1 base ft offset) s (s.accessAddr base offset) 8 { f := [ft] }
      (fun bytes t => t.readF ft
        = fitWidth s.cfg.fprWidth (BitVec.ofNat 64 (bytesNumber s.cfg.loadByteOrder bytes)))
    ∧ Stores (.swc1 base ft offset) s (s.accessAddr base offset) 4 (s.readF ft)
    ∧ Stores (.sdc1 base ft offset) s (s.accessAddr base offset) 8 (s.readF ft)

/-- The integer stores, for every address: the low bytes of the register, the least significant one first
(41_load_store.md R221, R222, R242 to R245). Where a store completes a DMA that is fatal, the collaborator
keeps the write: this clause is the model's choice (log 11). Under a width that is not the default, what is
held is the model's choice (log 21). -/
def Obligations.IntegerStores : Prop :=
  ∀ (s : State) (base rt : RegIdx) (offset : BitVec 16),
    Stores (.sb base rt offset) s (s.accessAddr base offset) 1 (s.readX rt)
    ∧ Stores (.sh base rt offset) s (s.accessAddr base offset) 2 (s.readX rt)
    ∧ Stores (.sw base rt offset) s (s.accessAddr base offset) 4 (s.readX rt)
    ∧ Stores (.sd base rt offset) s (s.accessAddr base offset) 8 (s.readX rt)

/-- The unaligned, load-linked and store-conditional forms halt the machine in every state, whatever their
address, with nothing changed (41_load_store.md R232 to R237, R248 to R253). -/
def Obligations.UnsupportedForms : Prop :=
  ∀ (s : State) (base rt : RegIdx) (offset : BitVec 16),
    Halts (.lwl base rt offset) s (.unsupportedFeature .unalignedForm)
    ∧ Halts (.lwr base rt offset) s (.unsupportedFeature .unalignedForm)
    ∧ Halts (.ldl base rt offset) s (.unsupportedFeature .unalignedForm)
    ∧ Halts (.ldr base rt offset) s (.unsupportedFeature .unalignedForm)
    ∧ Halts (.swl base rt offset) s (.unsupportedFeature .unalignedForm)
    ∧ Halts (.swr base rt offset) s (.unsupportedFeature .unalignedForm)
    ∧ Halts (.sdl base rt offset) s (.unsupportedFeature .unalignedForm)
    ∧ Halts (.sdr base rt offset) s (.unsupportedFeature .unalignedForm)
    ∧ Halts (.ll base rt offset) s (.unsupportedFeature .loadLinked)
    ∧ Halts (.lld base rt offset) s (.unsupportedFeature .loadLinked)
    ∧ Halts (.sc base rt offset) s (.unsupportedFeature .storeConditional)
    ∧ Halts (.scd base rt offset) s (.unsupportedFeature .storeConditional)

/-- The TLB operations and the floating-point arithmetic words halt the machine in every state with
nothing changed (46_system.md R450 to R453, R457). -/
def Obligations.UnsupportedUnits : Prop :=
  ∀ s : State, Halts .tlbr s (.unsupportedFeature .tlb) ∧ Halts .tlbwi s (.unsupportedFeature .tlb)
    ∧ Halts .tlbwr s (.unsupportedFeature .tlb) ∧ Halts .tlbp s (.unsupportedFeature .tlb)
    ∧ Halts .cop1S s (.unsupportedFeature (.unimplementedOpcode .cop1Arith))
    ∧ Halts .cop1D s (.unsupportedFeature (.unimplementedOpcode .cop1Arith))
    ∧ Halts .cop1W s (.unsupportedFeature (.unimplementedOpcode .cop1Arith))
    ∧ Halts .cop1L s (.unsupportedFeature (.unimplementedOpcode .cop1Arith))

/-! ## Arithmetic -/

/-- `LUI`, and the transfers to and from `HI` and `LO` (41_load_store.md R231; 43_alu_shift_muldiv.md R358
to R361). -/
def Obligations.UpperImmediateAndHiLo : Prop :=
  ∀ (s : State) (r : RegIdx) (imm : BitVec 16),
    CompletesWriting (.lui r imm) s r ((imm ++ 0#16 : BitVec 32).signExtend 64)
    ∧ CompletesWriting (.mfhi r) s r s.hi ∧ CompletesWriting (.mflo r) s r s.lo
    ∧ Completes (.mthi r) s { hi := true } (fun t => t.hi = s.readX r)
    ∧ Completes (.mtlo r) s { lo := true } (fun t => t.lo = s.readX r)

/-- The wrapping additions and subtractions never raise: the 32-bit forms add or subtract the low words and
extend the sign (42_alu_arith_logic.md R272, R273, R276, R283, R285, R287, R295, R297). -/
def Obligations.WrappingArithmetic : Prop :=
  ∀ (s : State) (rs rt rd : RegIdx) (imm : BitVec 16),
    CompletesWriting (.addiu rs rt imm) s rt
      (((s.readX rs).extractLsb' 0 32 + imm.signExtend 32).signExtend 64)
    ∧ CompletesWriting (.addu rs rt rd) s rd
      (((s.readX rs).extractLsb' 0 32 + (s.readX rt).extractLsb' 0 32).signExtend 64)
    ∧ CompletesWriting (.subu rs rt rd) s rd
      (((s.readX rs).extractLsb' 0 32 - (s.readX rt).extractLsb' 0 32).signExtend 64)
    ∧ CompletesWriting (.daddiu rs rt imm) s rt (s.readX rs + imm.signExtend 64)
    ∧ CompletesWriting (.daddu rs rt rd) s rd (s.readX rs + s.readX rt)
    ∧ CompletesWriting (.dsubu rs rt rd) s rd (s.readX rs - s.readX rt)

/-- The trapping additions and subtractions write the exact signed result when it fits 32 or 64 bits, and
raise `Ov` with the destination unchanged when it does not, also for destination 0
(42_alu_arith_logic.md R271 to R273, R275, R282, R284, R286, R294, R296). -/
def Obligations.TrappingArithmetic : Prop :=
  ∀ (s : State) (rs rt rd : RegIdx) (imm : BitVec 16),
    WritesUnlessOverflow (.addi rs rt imm) s rt 32 (((s.readX rs).extractLsb' 0 32).toInt + imm.toInt)
    ∧ WritesUnlessOverflow (.add rs rt rd) s rd 32
      (((s.readX rs).extractLsb' 0 32).toInt + ((s.readX rt).extractLsb' 0 32).toInt)
    ∧ WritesUnlessOverflow (.sub rs rt rd) s rd 32
      (((s.readX rs).extractLsb' 0 32).toInt - ((s.readX rt).extractLsb' 0 32).toInt)
    ∧ WritesUnlessOverflow (.daddi rs rt imm) s rt 64 ((s.readX rs).toInt + imm.toInt)
    ∧ WritesUnlessOverflow (.dadd rs rt rd) s rd 64 ((s.readX rs).toInt + (s.readX rt).toInt)
    ∧ WritesUnlessOverflow (.dsub rs rt rd) s rd 64 ((s.readX rs).toInt - (s.readX rt).toInt)

/-- The logical and compare instructions, on all 64 bits; the logical immediates are zero-extended, the
compared ones sign-extended (42_alu_arith_logic.md R277 to R281, R288 to R293). -/
def Obligations.LogicAndCompare : Prop :=
  ∀ (s : State) (rs rt rd : RegIdx) (imm : BitVec 16),
    CompletesWriting (.andi rs rt imm) s rt (s.readX rs &&& (0#48 ++ imm))
    ∧ CompletesWriting (.ori rs rt imm) s rt (s.readX rs ||| (0#48 ++ imm))
    ∧ CompletesWriting (.xori rs rt imm) s rt (s.readX rs ^^^ (0#48 ++ imm))
    ∧ CompletesWriting (.and rs rt rd) s rd (s.readX rs &&& s.readX rt)
    ∧ CompletesWriting (.or rs rt rd) s rd (s.readX rs ||| s.readX rt)
    ∧ CompletesWriting (.xor rs rt rd) s rd (s.readX rs ^^^ s.readX rt)
    ∧ CompletesWriting (.nor rs rt rd) s rd (~~~s.readX rs &&& ~~~s.readX rt)
    ∧ CompletesWriting (.slti rs rt imm) s rt (if (s.readX rs).toInt < imm.toInt then 1#64 else 0#64)
    ∧ CompletesWriting (.sltiu rs rt imm) s rt
      (if (s.readX rs).toNat < (imm.signExtend 64).toNat then 1#64 else 0#64)
    ∧ CompletesWriting (.slt rs rt rd) s rd
      (if (s.readX rs).toInt < (s.readX rt).toInt then 1#64 else 0#64)
    ∧ CompletesWriting (.sltu rs rt rd) s rd
      (if (s.readX rs).toNat < (s.readX rt).toNat then 1#64 else 0#64)

/-- The shifts by a constant; the 32-bit forms shift the low word and extend the sign, also the logical
ones (43_alu_shift_muldiv.md R330, R335 to R337, R341 to R346). -/
def Obligations.ConstantShifts : Prop :=
  ∀ (s : State) (rt rd : RegIdx) (sa : BitVec 5),
    CompletesWriting (.sll rt rd sa) s rd (((s.readX rt).extractLsb' 0 32 <<< sa.toNat).signExtend 64)
    ∧ CompletesWriting (.srl rt rd sa) s rd (((s.readX rt).extractLsb' 0 32 >>> sa.toNat).signExtend 64)
    ∧ CompletesWriting (.sra rt rd sa) s rd
      (((s.readX rt).extractLsb' 0 32).sshiftRight sa.toNat |>.signExtend 64)
    ∧ CompletesWriting (.dsll rt rd sa) s rd (s.readX rt <<< sa.toNat)
    ∧ CompletesWriting (.dsrl rt rd sa) s rd (s.readX rt >>> sa.toNat)
    ∧ CompletesWriting (.dsra rt rd sa) s rd ((s.readX rt).sshiftRight sa.toNat)
    ∧ CompletesWriting (.dsll32 rt rd sa) s rd (s.readX rt <<< (sa.toNat + 32))
    ∧ CompletesWriting (.dsrl32 rt rd sa) s rd (s.readX rt >>> (sa.toNat + 32))
    ∧ CompletesWriting (.dsra32 rt rd sa) s rd ((s.readX rt).sshiftRight (sa.toNat + 32))

/-- The shifts by a register: the amount is taken modulo 32 or 64 (43_alu_shift_muldiv.md R330, R338 to
R340, R347 to R349). -/
def Obligations.VariableShifts : Prop :=
  ∀ (s : State) (rs rt rd : RegIdx),
    CompletesWriting (.sllv rs rt rd) s rd
      (((s.readX rt).extractLsb' 0 32 <<< ((s.readX rs).toNat % 32)).signExtend 64)
    ∧ CompletesWriting (.srlv rs rt rd) s rd
      (((s.readX rt).extractLsb' 0 32 >>> ((s.readX rs).toNat % 32)).signExtend 64)
    ∧ CompletesWriting (.srav rs rt rd) s rd
      (((s.readX rt).extractLsb' 0 32).sshiftRight ((s.readX rs).toNat % 32) |>.signExtend 64)
    ∧ CompletesWriting (.dsllv rs rt rd) s rd (s.readX rt <<< ((s.readX rs).toNat % 64))
    ∧ CompletesWriting (.dsrlv rs rt rd) s rd (s.readX rt >>> ((s.readX rs).toNat % 64))
    ∧ CompletesWriting (.dsrav rs rt rd) s rd ((s.readX rt).sshiftRight ((s.readX rs).toNat % 64))

/-- The multiplies: `HI` and `LO` are the upper and the lower half of the exact product, each half of a
32-bit product extended in sign (43_alu_shift_muldiv.md R331, R350, R351, R354, R355). -/
def Obligations.Multiply : Prop :=
  ∀ (s : State) (rs rt : RegIdx),
    CompletesHiLo (.mult rs rt) s
      ((BitVec.ofInt 32
        (((s.readX rs).extractLsb' 0 32).toInt * ((s.readX rt).extractLsb' 0 32).toInt / 2 ^ 32)).signExtend 64)
      ((BitVec.ofInt 32
        (((s.readX rs).extractLsb' 0 32).toInt * ((s.readX rt).extractLsb' 0 32).toInt)).signExtend 64)
    ∧ CompletesHiLo (.multu rs rt) s
      ((BitVec.ofNat 32
        (((s.readX rs).extractLsb' 0 32).toNat * ((s.readX rt).extractLsb' 0 32).toNat / 2 ^ 32)).signExtend 64)
      ((BitVec.ofNat 32
        (((s.readX rs).extractLsb' 0 32).toNat * ((s.readX rt).extractLsb' 0 32).toNat)).signExtend 64)
    ∧ CompletesHiLo (.dmult rs rt) s
      (BitVec.ofInt 64 ((s.readX rs).toInt * (s.readX rt).toInt / 2 ^ 64))
      (BitVec.ofInt 64 ((s.readX rs).toInt * (s.readX rt).toInt))
    ∧ CompletesHiLo (.dmultu rs rt) s
      (BitVec.ofNat 64 ((s.readX rs).toNat * (s.readX rt).toNat / 2 ^ 64))
      (BitVec.ofNat 64 ((s.readX rs).toNat * (s.readX rt).toNat))

/-- The divides, outside the corners of R332: `LO` is the quotient and `HI` the remainder, those of a
32-bit division extended in sign (43_alu_shift_muldiv.md R331, R352, R353, R356, R357). -/
def Obligations.Divide : Prop :=
  ∀ (s : State) (rs rt : RegIdx),
    (((s.readX rt).extractLsb' 0 32).toInt ≠ 0 →
      ¬ (((s.readX rs).extractLsb' 0 32).toInt = -2 ^ 31 ∧ ((s.readX rt).extractLsb' 0 32).toInt = -1) →
      ∃ q r : Int,
        truncatedDivision ((s.readX rs).extractLsb' 0 32).toInt ((s.readX rt).extractLsb' 0 32).toInt q r
        ∧ CompletesHiLo (.div rs rt) s ((BitVec.ofInt 32 r).signExtend 64) ((BitVec.ofInt 32 q).signExtend 64))
    ∧ (((s.readX rt).extractLsb' 0 32).toNat ≠ 0 →
      CompletesHiLo (.divu rs rt) s
        ((BitVec.ofNat 32
          (((s.readX rs).extractLsb' 0 32).toNat % ((s.readX rt).extractLsb' 0 32).toNat)).signExtend 64)
        ((BitVec.ofNat 32
          (((s.readX rs).extractLsb' 0 32).toNat / ((s.readX rt).extractLsb' 0 32).toNat)).signExtend 64))
    ∧ (s.readX rt ≠ 0#64 →
      ¬ ((s.readX rs).toInt = -2 ^ 63 ∧ (s.readX rt).toInt = -1) →
      ∃ q r : Int, truncatedDivision (s.readX rs).toInt (s.readX rt).toInt q r
        ∧ CompletesHiLo (.ddiv rs rt) s (BitVec.ofInt 64 r) (BitVec.ofInt 64 q))
    ∧ (s.readX rt ≠ 0#64 →
      CompletesHiLo (.ddivu rs rt) s
        (BitVec.ofNat 64 ((s.readX rs).toNat % (s.readX rt).toNat))
        (BitVec.ofNat 64 ((s.readX rs).toNat / (s.readX rt).toNat)))

/-- Division by zero and division overflow complete and raise nothing: `HI` and `LO` are those of the
table of 43_alu_shift_muldiv.md R332, or, where the model is told to leave them open, a value nothing is
known of. The table is the default R332 marks as the spec's own (D28); the parameter that chooses between
the two is the model's (log 5, log 6). -/
def Obligations.DivideCorners : Prop :=
  ∀ (s : State) (rs rt : RegIdx),
    (s.cfg.divCorner = .table →
      (((s.readX rt).extractLsb' 0 32).toInt = 0 →
        CompletesHiLo (.div rs rt) s (((s.readX rs).extractLsb' 0 32).signExtend 64)
          (if 0 ≤ ((s.readX rs).extractLsb' 0 32).toInt then 0xFFFFFFFFFFFFFFFF#64 else 1#64))
      ∧ (((s.readX rt).extractLsb' 0 32).toNat = 0 →
        CompletesHiLo (.divu rs rt) s (((s.readX rs).extractLsb' 0 32).signExtend 64) 0xFFFFFFFFFFFFFFFF#64)
      ∧ (s.readX rt = 0#64 →
        CompletesHiLo (.ddiv rs rt) s (s.readX rs)
          (if 0 ≤ (s.readX rs).toInt then 0xFFFFFFFFFFFFFFFF#64 else 1#64)
        ∧ CompletesHiLo (.ddivu rs rt) s (s.readX rs) 0xFFFFFFFFFFFFFFFF#64)
      ∧ (((s.readX rs).extractLsb' 0 32).toInt = -2 ^ 31 → ((s.readX rt).extractLsb' 0 32).toInt = -1 →
        CompletesHiLo (.div rs rt) s 0#64 0xFFFFFFFF80000000#64)
      ∧ ((s.readX rs).toInt = -2 ^ 63 → (s.readX rt).toInt = -1 →
        CompletesHiLo (.ddiv rs rt) s 0#64 0x8000000000000000#64))
    ∧ (s.cfg.divCorner = .free →
      (((s.readX rt).extractLsb' 0 32).toInt = 0 →
        CompletesHiLo (.div rs rt) s (Config.divZero .div32 (s.readX rs)).1
          (Config.divZero .div32 (s.readX rs)).2)
      ∧ (((s.readX rt).extractLsb' 0 32).toNat = 0 →
        CompletesHiLo (.divu rs rt) s (Config.divZero .divu32 (s.readX rs)).1
          (Config.divZero .divu32 (s.readX rs)).2)
      ∧ (s.readX rt = 0#64 →
        CompletesHiLo (.ddiv rs rt) s (Config.divZero .div64 (s.readX rs)).1
          (Config.divZero .div64 (s.readX rs)).2
        ∧ CompletesHiLo (.ddivu rs rt) s (Config.divZero .divu64 (s.readX rs)).1
          (Config.divZero .divu64 (s.readX rs)).2)
      ∧ (((s.readX rs).extractLsb' 0 32).toInt = -2 ^ 31 → ((s.readX rt).extractLsb' 0 32).toInt = -1 →
        CompletesHiLo (.div rs rt) s (Config.divOvf .div32).1 (Config.divOvf .div32).2)
      ∧ ((s.readX rs).toInt = -2 ^ 63 → (s.readX rt).toInt = -1 →
        CompletesHiLo (.ddiv rs rt) s (Config.divOvf .div64).1 (Config.divOvf .div64).2))

/-! ## Control transfers -/

/-- The jumps, outside a delay slot: the absolute target is formed from the address of the delay slot and
the index, the register target is the register before the link is written (44_control_flow.md R373 to R379).
Under a width that is not the default, what is held is the model's choice (log 21). -/
def Obligations.Jumps : Prop :=
  ∀ (s : State) (index : BitVec 26) (rs rd : RegIdx), s.latch = none →
    CompletesTransfer (.j index) s true
      (((s.pc + 4#64) &&& 0xFFFFFFFFF0000000#64) ||| (index.setWidth 64 <<< 2)) []
    ∧ CompletesTransfer (.jal index) s true
      (((s.pc + 4#64) &&& 0xFFFFFFFFF0000000#64) ||| (index.setWidth 64 <<< 2)) [31]
    ∧ CompletesTransfer (.jr rs) s true (s.readX rs) []
    ∧ CompletesTransfer (.jalr rs rd) s true (s.readX rs) [rd]

/-- The branches that are not likely, outside a delay slot: their condition on all 64 bits, their target and
their link, written whether or not they are taken (44_control_flow.md R371, R372, R375, R380 to R383, R388,
R389, R392, R393). Under a width that is not the default, what is held is the model's choice (log 21). -/
def Obligations.Branches : Prop :=
  ∀ (s : State) (rs rt : RegIdx) (imm : BitVec 16), s.latch = none →
    BranchesIf (.beq rs rt imm) s (decide (s.readX rs = s.readX rt)) imm []
    ∧ BranchesIf (.bne rs rt imm) s (decide (s.readX rs ≠ s.readX rt)) imm []
    ∧ BranchesIf (.blez rs imm) s ((s.readX rs).msb || decide (s.readX rs = 0#64)) imm []
    ∧ BranchesIf (.bgtz rs imm) s (!(s.readX rs).msb && decide (s.readX rs ≠ 0#64)) imm []
    ∧ BranchesIf (.bltz rs imm) s (s.readX rs).msb imm []
    ∧ BranchesIf (.bgez rs imm) s (!(s.readX rs).msb) imm []
    ∧ BranchesIf (.bltzal rs imm) s (s.readX rs).msb imm [31]
    ∧ BranchesIf (.bgezal rs imm) s (!(s.readX rs).msb) imm [31]

/-- The likely branches, outside a delay slot: not taken, the delay slot is nullified; the link is written
whether or not they are taken (40_pipeline.md R205; 44_control_flow.md R384 to R387, R390, R391, R394,
R395). Under a width that is not the default, what is held is the model's choice (log 21). -/
def Obligations.LikelyBranches : Prop :=
  ∀ (s : State) (rs rt : RegIdx) (imm : BitVec 16), s.latch = none →
    BranchesLikelyIf (.beql rs rt imm) s (decide (s.readX rs = s.readX rt)) imm []
    ∧ BranchesLikelyIf (.bnel rs rt imm) s (decide (s.readX rs ≠ s.readX rt)) imm []
    ∧ BranchesLikelyIf (.blezl rs imm) s ((s.readX rs).msb || decide (s.readX rs = 0#64)) imm []
    ∧ BranchesLikelyIf (.bgtzl rs imm) s (!(s.readX rs).msb && decide (s.readX rs ≠ 0#64)) imm []
    ∧ BranchesLikelyIf (.bltzl rs imm) s (s.readX rs).msb imm []
    ∧ BranchesLikelyIf (.bgezl rs imm) s (!(s.readX rs).msb) imm []
    ∧ BranchesLikelyIf (.bltzall rs imm) s (s.readX rs).msb imm [31]
    ∧ BranchesLikelyIf (.bgezall rs imm) s (!(s.readX rs).msb) imm [31]

/-- The coprocessor-condition branches with `CU1` = 1, outside a delay slot: they read bit 23 of `FCSR`
(44_control_flow.md R371, R398 to R401). Under a width that is not the default, what is held is the model's
choice (log 21). -/
def Obligations.ConditionBranches : Prop :=
  ∀ (s : State) (imm : BitVec 16), s.latch = none → s.cu1 = true →
    BranchesIf (.bc1f imm) s (!s.fcsr.getLsbD 23) imm []
    ∧ BranchesIf (.bc1t imm) s (s.fcsr.getLsbD 23) imm []
    ∧ BranchesLikelyIf (.bc1fl imm) s (!s.fcsr.getLsbD 23) imm []
    ∧ BranchesLikelyIf (.bc1tl imm) s (s.fcsr.getLsbD 23) imm []

/-- After a control transfer that enters its delay slot, a delay-slot instruction that is done ends the
block: its effects are there, and the program counter is the target of a taken branch, or the address of the
branch plus two instruction widths when the branch is not taken (40_pipeline.md R206). Under a width that is
not the default, what is held is the model's choice (log 21). -/
def Obligations.DelaySlotThenTarget : Prop :=
  (∀ (s t : State) (p : PendingBranch) (e : BlockEntry) (i : Instr) (c : Changes) (P : State → Prop),
      s.sequenceOk → s.phase = .running → s.latch = some p → s.block = [e] → decodeWord e.word = some i →
      Completes i s c P → step s = .next t →
      P t ∧ Frame c s t ∧ t.block = [] ∧ t.latch = none
        ∧ t.pc = toPc s.cfg (if p.taken then p.target else p.ctAddr + 8#64))
    ∧ (∀ (s : State) (rs rt d : RegIdx) (imm v : BitVec 16),
      s.phase = .running → s.latch = none → s.readX rs ≠ s.readX rt →
      s.block = [⟨s.pc, encode (.beq rs rt imm)⟩, ⟨toPc s.cfg (s.pc + 4#64), encode (.ori 0 d v)⟩] →
      ∃ t u, step s = .next t ∧ step t = .next u ∧ u.pc = toPc s.cfg (s.pc + 8#64)
        ∧ u.readX d = if d = 0 then 0#64 else 0#48 ++ v)

/-! ## Moves -/

/-- The coprocessor-0 transfers complete in every state: a read gives the whole slot, a write changes the
writable bits of the slot and no other bit, and the word and doubleword forms are the same (45_move.md R410,
R412 to R415; 10_state.md R40). Under a width that is not the default, what is held is the model's choice
(log 21). -/
def Obligations.Cop0Moves : Prop :=
  ∀ (s : State) (rt rd : RegIdx),
    CompletesWriting (.mfc0 rt rd) s rt (fitWidth s.cfg.cp0Width (s.readC0 rd))
    ∧ CompletesWriting (.dmfc0 rt rd) s rt (fitWidth s.cfg.cp0Width (s.readC0 rd))
    ∧ Completes (.mtc0 rt rd) s { c0 := [rd] } (fun t => ∀ k, (t.readC0 rd).getLsbD k
        = if k < s.cfg.cp0Width.bits ∧ (writeMask rd).getLsbD k = true then (s.readX rt).getLsbD k
          else (s.readC0 rd).getLsbD k)
    ∧ Completes (.dmtc0 rt rd) s { c0 := [rd] } (fun t => ∀ k, (t.readC0 rd).getLsbD k
        = if k < s.cfg.cp0Width.bits ∧ (writeMask rd).getLsbD k = true then (s.readX rt).getLsbD k
          else (s.readC0 rd).getLsbD k)

/-- The write masks of the system-control registers (10_state.md R41 to R48). -/
def Obligations.WriteMasks : Prop :=
  (∀ i : RegIdx, i ∈ [0, 1, 5, 6, 9, 11, 17, 18, 19, 26, 27, 29] → writeMask i = 0xFFFFFFFF#64)
    ∧ (∀ i : RegIdx, i ∈ [2, 3, 4, 8, 10, 14, 30] → writeMask i = 0xFFFFFFFFFFFFFFFF#64)
    ∧ (∀ i : RegIdx, i ∈ [7, 15, 21, 22, 23, 24, 25, 31] → writeMask i = 0#64)
    ∧ writeMask 12 = 0xFF57FFFF#64 ∧ writeMask 13 = 0x300#64 ∧ writeMask 16 = 0x0F00800F#64
    ∧ writeMask 20 = 0xFFFFFFFE00000000#64 ∧ writeMask 28 = 0x0FFFFFC0#64

/-- The coprocessor-1 transfers with `CU1` = 1: all 64 bits of a floating-point register in both forms; the
two control registers, of which 0 discards a write and 31 stores the bits of its mask; every other number
halts the machine (45_move.md R416 to R419, R422, R423). Under a width that is not the default, what is held
is the model's choice (log 21). -/
def Obligations.Cop1Moves : Prop :=
  ∀ (s : State) (rt fs : RegIdx), s.cu1 = true →
    CompletesWriting (.mfc1 rt fs) s rt (s.readF fs)
    ∧ CompletesWriting (.dmfc1 rt fs) s rt (s.readF fs)
    ∧ Completes (.mtc1 rt fs) s { f := [fs] } (fun t => t.readF fs = fitWidth s.cfg.fprWidth (s.readX rt))
    ∧ Completes (.dmtc1 rt fs) s { f := [fs] } (fun t => t.readF fs = fitWidth s.cfg.fprWidth (s.readX rt))
    ∧ CompletesWriting (.cfc1 rt 0) s rt s.fcr0
    ∧ CompletesWriting (.cfc1 rt 31) s rt s.fcsr
    ∧ Completes (.ctc1 rt 0) s {} (fun _ => True)
    ∧ Completes (.ctc1 rt 31) s { fcsr := true } (fun t => t.fcsr = s.readX rt &&& 0x0183FFFF#64)
    ∧ (fs ≠ 0 → fs ≠ 31 → Halts (.cfc1 rt fs) s (.unsupportedFeature .fcrIndex)
        ∧ Halts (.ctc1 rt fs) s (.unsupportedFeature .fcrIndex))

/-! ## Boot -/

/-- Boot stage one seeds Status, Config and the stack pointer, and changes nothing else
(70_reset_and_hazards.md R512): the bits inside the write masks are those of the parameters, and from every
state the bits outside the write masks keep their values. -/
def Obligations.BootStageOne : Prop :=
  (∀ s : State, s.phase = .reset →
      ∃ t, step s = .next t
        ∧ t = { s with c0 := t.c0, x := s.x.set 29 s.cfg.bootSp, phase := .boot1Done }
        ∧ (∀ i : RegIdx, i ≠ 12 → i ≠ 16 → t.readC0 i = s.readC0 i)
        ∧ t.readC0 12 = (s.readC0 12 &&& ~~~0xFF57FFFF#64) ||| (s.cfg.bootStatus &&& 0xFF57FFFF#64)
        ∧ t.readC0 16 = (s.readC0 16 &&& ~~~0x0F00800F#64) ||| (s.cfg.bootConfig &&& 0x0F00800F#64))
    ∧ (∀ t, step State.reset = .next t → t.readC0 12 = 0x34000000#64 ∧ t.readC0 16 = 0x0006E463#64
        ∧ t.readX 29 = 0xFFFFFFFFA4001FF0#64)

/-- Boot stage two copies the first 4096 bytes of the cartridge to the data memory, sets the program
counter to the entry address and changes nothing else; a shorter cartridge is fatal with nothing copied
(70_reset_and_hazards.md R513, R514). -/
def Obligations.BootStageTwo : Prop :=
  ∀ s : State, s.phase = .boot1Done →
    (4096 ≤ s.cart.length →
      ∃ t, step s = .next t ∧ t = { s with mem := t.mem, pc := t.pc, phase := .running }
        ∧ (s.cfg.bootEntry = .windowStart → t.pc = 0xFFFFFFFFA4000000#64)
        ∧ (s.cfg.bootEntry = .bootCode → t.pc = 0xFFFFFFFFA4000040#64)
        ∧ (s.mem.wf = true → ∀ i < 4096, s.cart[i]? = some (t.dmem i))
        ∧ (∀ i < 4096, t.imem i = s.imem i) ∧ ∀ a < 0x04000000, t.ram a = s.ram a)
    ∧ (s.cart.length < 4096 → step s = .next { s with phase := .halted .bootFailure })

/-- From reset with a cartridge of at least 4096 bytes two steps lead to the state the first instruction
sees: Status, Config, the stack pointer, the program counter and the data memory as the boot stages set
them, and everything else as after reset (10_state.md R71, R72). Where memory is not given by `INIT_RAM` or
`INIT_IMEM` it reads as zero (log 8, the model's choice). -/
def Obligations.BootedState : Prop :=
  ∀ (cart : List Byte) (pi : Peripheral) (cfg : Params), 4096 ≤ cart.length →
    ∃ t u, step (hostReset cart pi cfg) = .next t ∧ step t = .next u
      ∧ u.phase = .running ∧ u.status = cfg.bootStatus &&& 0xFF57FFFF#64
      ∧ u.readC0 16 = (cfg.bootConfig &&& 0x0F00800F#64) ||| 0x00066460#64
      ∧ u.readC0 15 = cfg.pridValue.setWidth 64
      ∧ (∀ i : RegIdx, i ≠ 12 → i ≠ 15 → i ≠ 16 → u.readC0 i = 0#64)
      ∧ (∀ i : RegIdx, u.readX i = if i = 29 then cfg.bootSp else 0#64)
      ∧ (cfg.bootEntry = .windowStart → u.pc = 0xFFFFFFFFA4000000#64)
      ∧ (cfg.bootEntry = .bootCode → u.pc = 0xFFFFFFFFA4000040#64)
      ∧ (∀ i < 4096, cart[i]? = some (u.dmem i))
      ∧ (∀ i < 4096, u.imem i = cfg.initImem.getD i 0#8)
      ∧ (∀ i < cfg.ramSize.val, u.ram i = cfg.initRam.getD i 0#8)
      ∧ (∀ i, u.readF i = 0#64) ∧ u.readFcr 0 = some (cfg.fcr0Value.setWidth 64) ∧ u.readFcr 31 = some 0#64
      ∧ u.hi = 0#64 ∧ u.lo = 0#64 ∧ u.llbit = false ∧ u.block = [] ∧ u.latch = none
      ∧ u.cart = cart ∧ u.pi = pi ∧ u.cfg = cfg
      ∧ (cfg = Params.defaults →
        u.status = 0x34000000#64 ∧ u.readC0 16 = 0x0006E463#64 ∧ u.readC0 15 = 0x0B22#64
          ∧ u.readFcr 0 = some 0x0B00#64 ∧ u.readX 29 = 0xFFFFFFFFA4001FF0#64
          ∧ u.pc = 0xFFFFFFFFA4000000#64 ∧ u.cu1 = true ∧ u.exl = false ∧ u.erl = false ∧ u.bev = false
          ∧ (∀ i < 4096, u.imem i = 0#8) ∧ ∀ i < 0x04000000, u.ram i = 0#8)

end
end

