-- ==== Sys2Proof/Laws/Width.lean ====
section
/-! SUPPORT. What a register of a given width holds: the bits of `fitWidth`, `lowBits` and `mergeBits`, and
what two of them together do. -/

namespace Sys2Proof.Machine

theorem RegWidth_bits_bounds (w : RegWidth) : 32 ≤ w.bits ∧ w.bits ≤ 64 := by
  have := w.above.isLt
  unfold RegWidth.bits
  omega

/-- The bits of a value as a register holds it: those the register has, then copies of its top bit. -/
theorem getLsbD_fitWidth (w : RegWidth) (v : Word) {k : Nat} (hk : k < 64) :
    (fitWidth w v).getLsbD k = v.getLsbD (min k (w.bits - 1)) := by
  have hw := RegWidth_bits_bounds w
  unfold fitWidth
  rw [BitVec.getLsbD_signExtend, BitVec.msb_eq_getLsbD_last, BitVec.getLsbD_setWidth, BitVec.getLsbD_setWidth]
  by_cases h : k < w.bits
  · simp [h, hk, Nat.min_eq_left (show k ≤ w.bits - 1 by omega)]
  · simp [h, hk, Nat.min_eq_right (show w.bits - 1 ≤ k by omega), show w.bits - 1 < w.bits by omega]

@[simp] theorem getLsbD_lowBits (w : RegWidth) (k : Nat) : (lowBits w).getLsbD k = decide (k < w.bits) := by
  have hw := RegWidth_bits_bounds w
  simp only [lowBits, BitVec.getLsbD_setWidth, BitVec.getLsbD_allOnes]
  by_cases h : k < w.bits
  · simp [h, show k < 64 by omega]
  · simp [h]

theorem getLsbD_mergeBits (m old v : Word) (k : Nat) :
    (mergeBits m old v).getLsbD k = if m.getLsbD k = true then v.getLsbD k else old.getLsbD k := by
  by_cases hk : k < 64
  · simp only [mergeBits, BitVec.getLsbD_or, BitVec.getLsbD_and, BitVec.getLsbD_not, hk, decide_true, Bool.true_and]
    cases m.getLsbD k <;> simp
  · simp only [BitVec.getLsbD_of_ge _ k (Nat.le_of_not_lt hk), Bool.false_eq_true, if_false]

/-- Two values with the same low bits are held alike. -/
theorem fitWidth_congr {w : RegWidth} {a b : Word} (h : a.setWidth w.bits = b.setWidth w.bits) :
    fitWidth w a = fitWidth w b := by
  unfold fitWidth
  rw [h]

/-- What a register holds of a value has the low bits of the value. -/
theorem setWidth_fitWidth (w : RegWidth) (v : Word) : (fitWidth w v).setWidth w.bits = v.setWidth w.bits := by
  have hw := RegWidth_bits_bounds w
  apply BitVec.eq_of_getLsbD_eq
  intro k hk
  simp only [BitVec.getLsbD_setWidth, hk, decide_true, Bool.true_and]
  rw [getLsbD_fitWidth w v (by omega), Nat.min_eq_left (by omega)]

@[simp] theorem fitWidth_fitWidth (w : RegWidth) (v : Word) : fitWidth w (fitWidth w v) = fitWidth w v :=
  fitWidth_congr (setWidth_fitWidth w v)

/-- Holding a value before or after adding to it is the same. -/
@[simp] theorem fitWidth_fitWidth_add (w : RegWidth) (v d : Word) :
    fitWidth w (fitWidth w v + d) = fitWidth w (v + d) := by
  have hw := RegWidth_bits_bounds w
  apply fitWidth_congr
  rw [BitVec.setWidth_add _ _ hw.2, BitVec.setWidth_add _ _ hw.2, setWidth_fitWidth]

/-- A register of 64 bits holds the value. -/
@[simp] theorem fitWidth_full (v : Word) : fitWidth .full v = v := by
  apply BitVec.eq_of_getLsbD_eq
  intro k hk
  rw [getLsbD_fitWidth _ _ hk]
  exact congrArg v.getLsbD (Nat.min_eq_left (by show k ≤ 64 - 1; omega))

/-- The sign extension of a 32-bit value is held by a register of any width. -/
@[simp] theorem fitWidth_signExtend (w : RegWidth) (v : BitVec 32) :
    fitWidth w (v.signExtend 64) = v.signExtend 64 := by
  have hw := RegWidth_bits_bounds w
  apply BitVec.eq_of_getLsbD_eq
  intro k hk
  rw [getLsbD_fitWidth _ _ hk, BitVec.getLsbD_signExtend, BitVec.getLsbD_signExtend]
  by_cases h : k < 32
  · simp [h, hk, Nat.min_eq_left (show k ≤ w.bits - 1 by omega)]
  · by_cases h' : k ≤ w.bits - 1
    · rw [Nat.min_eq_left h']
    · rw [Nat.min_eq_right (by omega)]
      by_cases h2 : w.bits = 32
      · rw [h2, if_pos (by omega), if_neg (by omega), BitVec.msb_eq_getLsbD_last]
        simp [hk]
      · simp [hk, h, show ¬ w.bits - 1 < 32 by omega, show w.bits - 1 < 64 by omega]

@[simp] theorem fitWidth_zero (w : RegWidth) : fitWidth w 0#64 = 0#64 := fitWidth_signExtend w 0#32

/-- A slot whose bits were replaced is held as the new value. -/
@[simp] theorem fitWidth_mergeBits_lowBits (w : RegWidth) (old v : Word) :
    fitWidth w (mergeBits (lowBits w) old v) = fitWidth w v := by
  have hw := RegWidth_bits_bounds w
  apply fitWidth_congr
  apply BitVec.eq_of_getLsbD_eq
  intro k hk
  simp only [BitVec.getLsbD_setWidth, hk, decide_true, Bool.true_and]
  rw [getLsbD_mergeBits]
  simp [hk]

/-- A mask of the first 32 bits lies in a slot of any width. -/
theorem and_lowBits_of_lt {m : Word} (h : m.toNat < 2 ^ 32) (w : RegWidth) : m &&& lowBits w = m := by
  have hw := RegWidth_bits_bounds w
  apply BitVec.eq_of_getLsbD_eq
  intro k hk
  rw [BitVec.getLsbD_and, getLsbD_lowBits]
  by_cases hb : k < w.bits
  · simp [hb]
  · have : m.getLsbD k = false := by
      rw [BitVec.getLsbD, Nat.testBit_lt_two_pow]
      exact Nat.lt_of_lt_of_le h (Nat.pow_le_pow_right (by omega) (by omega))
    simp [this]

/-- A bit of a value with a field replaced. -/
theorem getLsbD_insertField {n : Nat} (v : Word) (lo : Nat) (fld : BitVec n) {k : Nat} (hk : k < 64) :
    (insertField v lo fld).getLsbD k
      = if lo ≤ k ∧ k < lo + n then fld.getLsbD (k - lo) else v.getLsbD k := by
  simp only [insertField, BitVec.getLsbD_or, BitVec.getLsbD_and, BitVec.getLsbD_not, BitVec.getLsbD_shiftLeft,
    BitVec.getLsbD_setWidth, BitVec.getLsbD_allOnes, hk, decide_true, Bool.true_and]
  by_cases h1 : lo ≤ k
  · by_cases h2 : k < lo + n
    · simp [h1, h2, show ¬ k < lo by omega, show k - lo < n by omega, show k - lo < 64 by omega]
    · simp [h1, h2, show ¬ k - lo < n by omega, BitVec.getLsbD_of_ge fld (k - lo) (by omega)]
  · simp [h1, show k < lo by omega]

/-- Software writes the same bits of Status and of Config in a slot of any width. -/
theorem slotMask_status (cfg : Params) : slotMask cfg 12 = 0xFF57FFFF#64 :=
  and_lowBits_of_lt (by decide) cfg.cp0Width

theorem slotMask_config (cfg : Params) : slotMask cfg 16 = 0x0F00800F#64 :=
  and_lowBits_of_lt (by decide) cfg.cp0Width

@[simp] theorem toPc_toPc (cfg : Params) (a : Word) : toPc cfg (toPc cfg a) = toPc cfg a :=
  fitWidth_fitWidth _ a

@[simp] theorem toPc_toPc_add (cfg : Params) (a d : Word) : toPc cfg (toPc cfg a + d) = toPc cfg (a + d) :=
  fitWidth_fitWidth_add _ a d

@[simp] theorem toPc_signExtend (cfg : Params) (a : BitVec 32) :
    toPc cfg (a.signExtend 64) = a.signExtend 64 := fitWidth_signExtend _ a

end Sys2Proof.Machine
end

