-- ==== Sys2Proof/Laws/State.lean ====
section
/-! SUPPORT. One lemma per field per update of the state, and what a read sees after a write, so that no
later proof unfolds a record update. -/

namespace Sys2Proof.Machine

@[simp] theorem State.writeX_pc (s : State) (i : RegIdx) (v : Word) : (s.writeX i v).pc = s.pc := by
  unfold State.writeX; split <;> rfl
@[simp] theorem State.writeX_hi (s : State) (i : RegIdx) (v : Word) : (s.writeX i v).hi = s.hi := by
  unfold State.writeX; split <;> rfl
@[simp] theorem State.writeX_lo (s : State) (i : RegIdx) (v : Word) : (s.writeX i v).lo = s.lo := by
  unfold State.writeX; split <;> rfl
@[simp] theorem State.writeX_llbit (s : State) (i : RegIdx) (v : Word) : (s.writeX i v).llbit = s.llbit := by
  unfold State.writeX; split <;> rfl
@[simp] theorem State.writeX_f (s : State) (i : RegIdx) (v : Word) : (s.writeX i v).f = s.f := by
  unfold State.writeX; split <;> rfl
@[simp] theorem State.writeX_fcr0 (s : State) (i : RegIdx) (v : Word) : (s.writeX i v).fcr0 = s.fcr0 := by
  unfold State.writeX; split <;> rfl
@[simp] theorem State.writeX_fcsr (s : State) (i : RegIdx) (v : Word) : (s.writeX i v).fcsr = s.fcsr := by
  unfold State.writeX; split <;> rfl
@[simp] theorem State.writeX_c0 (s : State) (i : RegIdx) (v : Word) : (s.writeX i v).c0 = s.c0 := by
  unfold State.writeX; split <;> rfl
@[simp] theorem State.writeX_mem (s : State) (i : RegIdx) (v : Word) : (s.writeX i v).mem = s.mem := by
  unfold State.writeX; split <;> rfl
@[simp] theorem State.writeX_cart (s : State) (i : RegIdx) (v : Word) : (s.writeX i v).cart = s.cart := by
  unfold State.writeX; split <;> rfl
@[simp] theorem State.writeX_pi (s : State) (i : RegIdx) (v : Word) : (s.writeX i v).pi = s.pi := by
  unfold State.writeX; split <;> rfl
@[simp] theorem State.writeX_block (s : State) (i : RegIdx) (v : Word) : (s.writeX i v).block = s.block := by
  unfold State.writeX; split <;> rfl
@[simp] theorem State.writeX_latch (s : State) (i : RegIdx) (v : Word) : (s.writeX i v).latch = s.latch := by
  unfold State.writeX; split <;> rfl
@[simp] theorem State.writeX_phase (s : State) (i : RegIdx) (v : Word) : (s.writeX i v).phase = s.phase := by
  unfold State.writeX; split <;> rfl
@[simp] theorem State.writeX_cfg (s : State) (i : RegIdx) (v : Word) : (s.writeX i v).cfg = s.cfg := by
  unfold State.writeX; split <;> rfl

@[simp] theorem State.writeF_x (s : State) (i : RegIdx) (v : Word) : (s.writeF i v).x = s.x := rfl
@[simp] theorem State.writeF_pc (s : State) (i : RegIdx) (v : Word) : (s.writeF i v).pc = s.pc := rfl
@[simp] theorem State.writeF_hi (s : State) (i : RegIdx) (v : Word) : (s.writeF i v).hi = s.hi := rfl
@[simp] theorem State.writeF_lo (s : State) (i : RegIdx) (v : Word) : (s.writeF i v).lo = s.lo := rfl
@[simp] theorem State.writeF_llbit (s : State) (i : RegIdx) (v : Word) : (s.writeF i v).llbit = s.llbit := rfl
@[simp] theorem State.writeF_fcr0 (s : State) (i : RegIdx) (v : Word) : (s.writeF i v).fcr0 = s.fcr0 := rfl
@[simp] theorem State.writeF_fcsr (s : State) (i : RegIdx) (v : Word) : (s.writeF i v).fcsr = s.fcsr := rfl
@[simp] theorem State.writeF_c0 (s : State) (i : RegIdx) (v : Word) : (s.writeF i v).c0 = s.c0 := rfl
@[simp] theorem State.writeF_mem (s : State) (i : RegIdx) (v : Word) : (s.writeF i v).mem = s.mem := rfl
@[simp] theorem State.writeF_cart (s : State) (i : RegIdx) (v : Word) : (s.writeF i v).cart = s.cart := rfl
@[simp] theorem State.writeF_pi (s : State) (i : RegIdx) (v : Word) : (s.writeF i v).pi = s.pi := rfl
@[simp] theorem State.writeF_block (s : State) (i : RegIdx) (v : Word) : (s.writeF i v).block = s.block := rfl
@[simp] theorem State.writeF_latch (s : State) (i : RegIdx) (v : Word) : (s.writeF i v).latch = s.latch := rfl
@[simp] theorem State.writeF_phase (s : State) (i : RegIdx) (v : Word) : (s.writeF i v).phase = s.phase := rfl
@[simp] theorem State.writeF_cfg (s : State) (i : RegIdx) (v : Word) : (s.writeF i v).cfg = s.cfg := rfl

@[simp] theorem State.writeC0_x (s : State) (i : RegIdx) (v : Word) : (s.writeC0 i v).x = s.x := rfl
@[simp] theorem State.writeC0_pc (s : State) (i : RegIdx) (v : Word) : (s.writeC0 i v).pc = s.pc := rfl
@[simp] theorem State.writeC0_hi (s : State) (i : RegIdx) (v : Word) : (s.writeC0 i v).hi = s.hi := rfl
@[simp] theorem State.writeC0_lo (s : State) (i : RegIdx) (v : Word) : (s.writeC0 i v).lo = s.lo := rfl
@[simp] theorem State.writeC0_llbit (s : State) (i : RegIdx) (v : Word) : (s.writeC0 i v).llbit = s.llbit := rfl
@[simp] theorem State.writeC0_f (s : State) (i : RegIdx) (v : Word) : (s.writeC0 i v).f = s.f := rfl
@[simp] theorem State.writeC0_fcr0 (s : State) (i : RegIdx) (v : Word) : (s.writeC0 i v).fcr0 = s.fcr0 := rfl
@[simp] theorem State.writeC0_fcsr (s : State) (i : RegIdx) (v : Word) : (s.writeC0 i v).fcsr = s.fcsr := rfl
@[simp] theorem State.writeC0_mem (s : State) (i : RegIdx) (v : Word) : (s.writeC0 i v).mem = s.mem := rfl
@[simp] theorem State.writeC0_cart (s : State) (i : RegIdx) (v : Word) : (s.writeC0 i v).cart = s.cart := rfl
@[simp] theorem State.writeC0_pi (s : State) (i : RegIdx) (v : Word) : (s.writeC0 i v).pi = s.pi := rfl
@[simp] theorem State.writeC0_block (s : State) (i : RegIdx) (v : Word) : (s.writeC0 i v).block = s.block := rfl
@[simp] theorem State.writeC0_latch (s : State) (i : RegIdx) (v : Word) : (s.writeC0 i v).latch = s.latch := rfl
@[simp] theorem State.writeC0_phase (s : State) (i : RegIdx) (v : Word) : (s.writeC0 i v).phase = s.phase := rfl
@[simp] theorem State.writeC0_cfg (s : State) (i : RegIdx) (v : Word) : (s.writeC0 i v).cfg = s.cfg := rfl

@[simp] theorem State.setC0_x (s : State) (i : RegIdx) (v : Word) : (s.setC0 i v).x = s.x := rfl
@[simp] theorem State.setC0_pc (s : State) (i : RegIdx) (v : Word) : (s.setC0 i v).pc = s.pc := rfl
@[simp] theorem State.setC0_hi (s : State) (i : RegIdx) (v : Word) : (s.setC0 i v).hi = s.hi := rfl
@[simp] theorem State.setC0_lo (s : State) (i : RegIdx) (v : Word) : (s.setC0 i v).lo = s.lo := rfl
@[simp] theorem State.setC0_llbit (s : State) (i : RegIdx) (v : Word) : (s.setC0 i v).llbit = s.llbit := rfl
@[simp] theorem State.setC0_f (s : State) (i : RegIdx) (v : Word) : (s.setC0 i v).f = s.f := rfl
@[simp] theorem State.setC0_fcr0 (s : State) (i : RegIdx) (v : Word) : (s.setC0 i v).fcr0 = s.fcr0 := rfl
@[simp] theorem State.setC0_fcsr (s : State) (i : RegIdx) (v : Word) : (s.setC0 i v).fcsr = s.fcsr := rfl
@[simp] theorem State.setC0_mem (s : State) (i : RegIdx) (v : Word) : (s.setC0 i v).mem = s.mem := rfl
@[simp] theorem State.setC0_cart (s : State) (i : RegIdx) (v : Word) : (s.setC0 i v).cart = s.cart := rfl
@[simp] theorem State.setC0_pi (s : State) (i : RegIdx) (v : Word) : (s.setC0 i v).pi = s.pi := rfl
@[simp] theorem State.setC0_block (s : State) (i : RegIdx) (v : Word) : (s.setC0 i v).block = s.block := rfl
@[simp] theorem State.setC0_latch (s : State) (i : RegIdx) (v : Word) : (s.setC0 i v).latch = s.latch := rfl
@[simp] theorem State.setC0_phase (s : State) (i : RegIdx) (v : Word) : (s.setC0 i v).phase = s.phase := rfl
@[simp] theorem State.setC0_cfg (s : State) (i : RegIdx) (v : Word) : (s.setC0 i v).cfg = s.cfg := rfl

@[simp] theorem State.advance_x (s : State) : (s.advance).x = s.x := rfl
@[simp] theorem State.advance_hi (s : State) : (s.advance).hi = s.hi := rfl
@[simp] theorem State.advance_lo (s : State) : (s.advance).lo = s.lo := rfl
@[simp] theorem State.advance_llbit (s : State) : (s.advance).llbit = s.llbit := rfl
@[simp] theorem State.advance_f (s : State) : (s.advance).f = s.f := rfl
@[simp] theorem State.advance_fcr0 (s : State) : (s.advance).fcr0 = s.fcr0 := rfl
@[simp] theorem State.advance_fcsr (s : State) : (s.advance).fcsr = s.fcsr := rfl
@[simp] theorem State.advance_c0 (s : State) : (s.advance).c0 = s.c0 := rfl
@[simp] theorem State.advance_mem (s : State) : (s.advance).mem = s.mem := rfl
@[simp] theorem State.advance_cart (s : State) : (s.advance).cart = s.cart := rfl
@[simp] theorem State.advance_pi (s : State) : (s.advance).pi = s.pi := rfl
@[simp] theorem State.advance_phase (s : State) : (s.advance).phase = s.phase := rfl
@[simp] theorem State.advance_cfg (s : State) : (s.advance).cfg = s.cfg := rfl

@[simp] theorem State.leaveBlock_x (s : State) : (s.leaveBlock).x = s.x := rfl
@[simp] theorem State.leaveBlock_pc (s : State) : (s.leaveBlock).pc = s.pc := rfl
@[simp] theorem State.leaveBlock_hi (s : State) : (s.leaveBlock).hi = s.hi := rfl
@[simp] theorem State.leaveBlock_lo (s : State) : (s.leaveBlock).lo = s.lo := rfl
@[simp] theorem State.leaveBlock_llbit (s : State) : (s.leaveBlock).llbit = s.llbit := rfl
@[simp] theorem State.leaveBlock_f (s : State) : (s.leaveBlock).f = s.f := rfl
@[simp] theorem State.leaveBlock_fcr0 (s : State) : (s.leaveBlock).fcr0 = s.fcr0 := rfl
@[simp] theorem State.leaveBlock_fcsr (s : State) : (s.leaveBlock).fcsr = s.fcsr := rfl
@[simp] theorem State.leaveBlock_c0 (s : State) : (s.leaveBlock).c0 = s.c0 := rfl
@[simp] theorem State.leaveBlock_mem (s : State) : (s.leaveBlock).mem = s.mem := rfl
@[simp] theorem State.leaveBlock_cart (s : State) : (s.leaveBlock).cart = s.cart := rfl
@[simp] theorem State.leaveBlock_pi (s : State) : (s.leaveBlock).pi = s.pi := rfl
@[simp] theorem State.leaveBlock_phase (s : State) : (s.leaveBlock).phase = s.phase := rfl
@[simp] theorem State.leaveBlock_cfg (s : State) : (s.leaveBlock).cfg = s.cfg := rfl

@[simp] theorem State.halt_x (s : State) (f : Fatal) : (s.halt f).x = s.x := rfl
@[simp] theorem State.halt_pc (s : State) (f : Fatal) : (s.halt f).pc = s.pc := rfl
@[simp] theorem State.halt_hi (s : State) (f : Fatal) : (s.halt f).hi = s.hi := rfl
@[simp] theorem State.halt_lo (s : State) (f : Fatal) : (s.halt f).lo = s.lo := rfl
@[simp] theorem State.halt_llbit (s : State) (f : Fatal) : (s.halt f).llbit = s.llbit := rfl
@[simp] theorem State.halt_f (s : State) (f : Fatal) : (s.halt f).f = s.f := rfl
@[simp] theorem State.halt_fcr0 (s : State) (f : Fatal) : (s.halt f).fcr0 = s.fcr0 := rfl
@[simp] theorem State.halt_fcsr (s : State) (f : Fatal) : (s.halt f).fcsr = s.fcsr := rfl
@[simp] theorem State.halt_c0 (s : State) (f : Fatal) : (s.halt f).c0 = s.c0 := rfl
@[simp] theorem State.halt_mem (s : State) (f : Fatal) : (s.halt f).mem = s.mem := rfl
@[simp] theorem State.halt_cart (s : State) (f : Fatal) : (s.halt f).cart = s.cart := rfl
@[simp] theorem State.halt_pi (s : State) (f : Fatal) : (s.halt f).pi = s.pi := rfl
@[simp] theorem State.halt_block (s : State) (f : Fatal) : (s.halt f).block = s.block := rfl
@[simp] theorem State.halt_latch (s : State) (f : Fatal) : (s.halt f).latch = s.latch := rfl
@[simp] theorem State.halt_cfg (s : State) (f : Fatal) : (s.halt f).cfg = s.cfg := rfl

@[simp] theorem State.enterException_x (s : State) (c : BitVec 5) (e : BitVec 2) : (s.enterException c e).x = s.x := rfl
@[simp] theorem State.enterException_hi (s : State) (c : BitVec 5) (e : BitVec 2) : (s.enterException c e).hi = s.hi := rfl
@[simp] theorem State.enterException_lo (s : State) (c : BitVec 5) (e : BitVec 2) : (s.enterException c e).lo = s.lo := rfl
@[simp] theorem State.enterException_llbit (s : State) (c : BitVec 5) (e : BitVec 2) : (s.enterException c e).llbit = s.llbit := rfl
@[simp] theorem State.enterException_f (s : State) (c : BitVec 5) (e : BitVec 2) : (s.enterException c e).f = s.f := rfl
@[simp] theorem State.enterException_fcr0 (s : State) (c : BitVec 5) (e : BitVec 2) : (s.enterException c e).fcr0 = s.fcr0 := rfl
@[simp] theorem State.enterException_fcsr (s : State) (c : BitVec 5) (e : BitVec 2) : (s.enterException c e).fcsr = s.fcsr := rfl
@[simp] theorem State.enterException_mem (s : State) (c : BitVec 5) (e : BitVec 2) : (s.enterException c e).mem = s.mem := rfl
@[simp] theorem State.enterException_cart (s : State) (c : BitVec 5) (e : BitVec 2) : (s.enterException c e).cart = s.cart := rfl
@[simp] theorem State.enterException_pi (s : State) (c : BitVec 5) (e : BitVec 2) : (s.enterException c e).pi = s.pi := rfl
@[simp] theorem State.enterException_phase (s : State) (c : BitVec 5) (e : BitVec 2) : (s.enterException c e).phase = s.phase := rfl
@[simp] theorem State.enterException_cfg (s : State) (c : BitVec 5) (e : BitVec 2) : (s.enterException c e).cfg = s.cfg := rfl

@[simp] theorem State.enterDelaySlot_x (s : State) (b : Bool) (a : Word) : (s.enterDelaySlot b a).x = s.x := rfl
@[simp] theorem State.enterDelaySlot_hi (s : State) (b : Bool) (a : Word) : (s.enterDelaySlot b a).hi = s.hi := rfl
@[simp] theorem State.enterDelaySlot_lo (s : State) (b : Bool) (a : Word) : (s.enterDelaySlot b a).lo = s.lo := rfl
@[simp] theorem State.enterDelaySlot_llbit (s : State) (b : Bool) (a : Word) : (s.enterDelaySlot b a).llbit = s.llbit := rfl
@[simp] theorem State.enterDelaySlot_f (s : State) (b : Bool) (a : Word) : (s.enterDelaySlot b a).f = s.f := rfl
@[simp] theorem State.enterDelaySlot_fcr0 (s : State) (b : Bool) (a : Word) : (s.enterDelaySlot b a).fcr0 = s.fcr0 := rfl
@[simp] theorem State.enterDelaySlot_fcsr (s : State) (b : Bool) (a : Word) : (s.enterDelaySlot b a).fcsr = s.fcsr := rfl
@[simp] theorem State.enterDelaySlot_c0 (s : State) (b : Bool) (a : Word) : (s.enterDelaySlot b a).c0 = s.c0 := rfl
@[simp] theorem State.enterDelaySlot_mem (s : State) (b : Bool) (a : Word) : (s.enterDelaySlot b a).mem = s.mem := rfl
@[simp] theorem State.enterDelaySlot_cart (s : State) (b : Bool) (a : Word) : (s.enterDelaySlot b a).cart = s.cart := rfl
@[simp] theorem State.enterDelaySlot_pi (s : State) (b : Bool) (a : Word) : (s.enterDelaySlot b a).pi = s.pi := rfl
@[simp] theorem State.enterDelaySlot_phase (s : State) (b : Bool) (a : Word) : (s.enterDelaySlot b a).phase = s.phase := rfl
@[simp] theorem State.enterDelaySlot_cfg (s : State) (b : Bool) (a : Word) : (s.enterDelaySlot b a).cfg = s.cfg := rfl

@[simp] theorem State.nullifyDelaySlot_x (s : State) : (s.nullifyDelaySlot).x = s.x := rfl
@[simp] theorem State.nullifyDelaySlot_hi (s : State) : (s.nullifyDelaySlot).hi = s.hi := rfl
@[simp] theorem State.nullifyDelaySlot_lo (s : State) : (s.nullifyDelaySlot).lo = s.lo := rfl
@[simp] theorem State.nullifyDelaySlot_llbit (s : State) : (s.nullifyDelaySlot).llbit = s.llbit := rfl
@[simp] theorem State.nullifyDelaySlot_f (s : State) : (s.nullifyDelaySlot).f = s.f := rfl
@[simp] theorem State.nullifyDelaySlot_fcr0 (s : State) : (s.nullifyDelaySlot).fcr0 = s.fcr0 := rfl
@[simp] theorem State.nullifyDelaySlot_fcsr (s : State) : (s.nullifyDelaySlot).fcsr = s.fcsr := rfl
@[simp] theorem State.nullifyDelaySlot_c0 (s : State) : (s.nullifyDelaySlot).c0 = s.c0 := rfl
@[simp] theorem State.nullifyDelaySlot_mem (s : State) : (s.nullifyDelaySlot).mem = s.mem := rfl
@[simp] theorem State.nullifyDelaySlot_cart (s : State) : (s.nullifyDelaySlot).cart = s.cart := rfl
@[simp] theorem State.nullifyDelaySlot_pi (s : State) : (s.nullifyDelaySlot).pi = s.pi := rfl
@[simp] theorem State.nullifyDelaySlot_phase (s : State) : (s.nullifyDelaySlot).phase = s.phase := rfl
@[simp] theorem State.nullifyDelaySlot_cfg (s : State) : (s.nullifyDelaySlot).cfg = s.cfg := rfl

@[simp] theorem State.returnFromException_x (s : State) : (s.returnFromException).x = s.x := by
  unfold State.returnFromException; split <;> rfl
@[simp] theorem State.returnFromException_hi (s : State) : (s.returnFromException).hi = s.hi := by
  unfold State.returnFromException; split <;> rfl
@[simp] theorem State.returnFromException_lo (s : State) : (s.returnFromException).lo = s.lo := by
  unfold State.returnFromException; split <;> rfl
@[simp] theorem State.returnFromException_f (s : State) : (s.returnFromException).f = s.f := by
  unfold State.returnFromException; split <;> rfl
@[simp] theorem State.returnFromException_fcr0 (s : State) : (s.returnFromException).fcr0 = s.fcr0 := by
  unfold State.returnFromException; split <;> rfl
@[simp] theorem State.returnFromException_fcsr (s : State) : (s.returnFromException).fcsr = s.fcsr := by
  unfold State.returnFromException; split <;> rfl
@[simp] theorem State.returnFromException_mem (s : State) : (s.returnFromException).mem = s.mem := by
  unfold State.returnFromException; split <;> rfl
@[simp] theorem State.returnFromException_cart (s : State) : (s.returnFromException).cart = s.cart := by
  unfold State.returnFromException; split <;> rfl
@[simp] theorem State.returnFromException_pi (s : State) : (s.returnFromException).pi = s.pi := by
  unfold State.returnFromException; split <;> rfl
@[simp] theorem State.returnFromException_block (s : State) : (s.returnFromException).block = s.block := by
  unfold State.returnFromException; split <;> rfl
@[simp] theorem State.returnFromException_latch (s : State) : (s.returnFromException).latch = s.latch := by
  unfold State.returnFromException; split <;> rfl
@[simp] theorem State.returnFromException_phase (s : State) : (s.returnFromException).phase = s.phase := by
  unfold State.returnFromException; split <;> rfl
@[simp] theorem State.returnFromException_cfg (s : State) : (s.returnFromException).cfg = s.cfg := by
  unfold State.returnFromException; split <;> rfl

@[simp] theorem State.writeLink_pc (s : State) (l : Option RegIdx) : (s.writeLink l).pc = s.pc := by
  cases l <;> simp [State.writeLink]
@[simp] theorem State.writeLink_hi (s : State) (l : Option RegIdx) : (s.writeLink l).hi = s.hi := by
  cases l <;> simp [State.writeLink]
@[simp] theorem State.writeLink_lo (s : State) (l : Option RegIdx) : (s.writeLink l).lo = s.lo := by
  cases l <;> simp [State.writeLink]
@[simp] theorem State.writeLink_llbit (s : State) (l : Option RegIdx) : (s.writeLink l).llbit = s.llbit := by
  cases l <;> simp [State.writeLink]
@[simp] theorem State.writeLink_f (s : State) (l : Option RegIdx) : (s.writeLink l).f = s.f := by
  cases l <;> simp [State.writeLink]
@[simp] theorem State.writeLink_fcr0 (s : State) (l : Option RegIdx) : (s.writeLink l).fcr0 = s.fcr0 := by
  cases l <;> simp [State.writeLink]
@[simp] theorem State.writeLink_fcsr (s : State) (l : Option RegIdx) : (s.writeLink l).fcsr = s.fcsr := by
  cases l <;> simp [State.writeLink]
@[simp] theorem State.writeLink_c0 (s : State) (l : Option RegIdx) : (s.writeLink l).c0 = s.c0 := by
  cases l <;> simp [State.writeLink]
@[simp] theorem State.writeLink_mem (s : State) (l : Option RegIdx) : (s.writeLink l).mem = s.mem := by
  cases l <;> simp [State.writeLink]
@[simp] theorem State.writeLink_cart (s : State) (l : Option RegIdx) : (s.writeLink l).cart = s.cart := by
  cases l <;> simp [State.writeLink]
@[simp] theorem State.writeLink_pi (s : State) (l : Option RegIdx) : (s.writeLink l).pi = s.pi := by
  cases l <;> simp [State.writeLink]
@[simp] theorem State.writeLink_block (s : State) (l : Option RegIdx) : (s.writeLink l).block = s.block := by
  cases l <;> simp [State.writeLink]
@[simp] theorem State.writeLink_latch (s : State) (l : Option RegIdx) : (s.writeLink l).latch = s.latch := by
  cases l <;> simp [State.writeLink]
@[simp] theorem State.writeLink_phase (s : State) (l : Option RegIdx) : (s.writeLink l).phase = s.phase := by
  cases l <;> simp [State.writeLink]
@[simp] theorem State.writeLink_cfg (s : State) (l : Option RegIdx) : (s.writeLink l).cfg = s.cfg := by
  cases l <;> simp [State.writeLink]

@[simp] theorem State.writeAlu_pc (s : State) (d : AluDest) (v : Word) : (s.writeAlu d v).pc = s.pc := by
  cases d <;> simp [State.writeAlu]
@[simp] theorem State.writeAlu_llbit (s : State) (d : AluDest) (v : Word) : (s.writeAlu d v).llbit = s.llbit := by
  cases d <;> simp [State.writeAlu]
@[simp] theorem State.writeAlu_f (s : State) (d : AluDest) (v : Word) : (s.writeAlu d v).f = s.f := by
  cases d <;> simp [State.writeAlu]
@[simp] theorem State.writeAlu_fcr0 (s : State) (d : AluDest) (v : Word) : (s.writeAlu d v).fcr0 = s.fcr0 := by
  cases d <;> simp [State.writeAlu]
@[simp] theorem State.writeAlu_fcsr (s : State) (d : AluDest) (v : Word) : (s.writeAlu d v).fcsr = s.fcsr := by
  cases d <;> simp [State.writeAlu]
@[simp] theorem State.writeAlu_c0 (s : State) (d : AluDest) (v : Word) : (s.writeAlu d v).c0 = s.c0 := by
  cases d <;> simp [State.writeAlu]
@[simp] theorem State.writeAlu_mem (s : State) (d : AluDest) (v : Word) : (s.writeAlu d v).mem = s.mem := by
  cases d <;> simp [State.writeAlu]
@[simp] theorem State.writeAlu_cart (s : State) (d : AluDest) (v : Word) : (s.writeAlu d v).cart = s.cart := by
  cases d <;> simp [State.writeAlu]
@[simp] theorem State.writeAlu_pi (s : State) (d : AluDest) (v : Word) : (s.writeAlu d v).pi = s.pi := by
  cases d <;> simp [State.writeAlu]
@[simp] theorem State.writeAlu_block (s : State) (d : AluDest) (v : Word) : (s.writeAlu d v).block = s.block := by
  cases d <;> simp [State.writeAlu]
@[simp] theorem State.writeAlu_latch (s : State) (d : AluDest) (v : Word) : (s.writeAlu d v).latch = s.latch := by
  cases d <;> simp [State.writeAlu]
@[simp] theorem State.writeAlu_phase (s : State) (d : AluDest) (v : Word) : (s.writeAlu d v).phase = s.phase := by
  cases d <;> simp [State.writeAlu]
@[simp] theorem State.writeAlu_cfg (s : State) (d : AluDest) (v : Word) : (s.writeAlu d v).cfg = s.cfg := by
  cases d <;> simp [State.writeAlu]

@[simp] theorem State.writeData_pc (s : State) (d : DataReg) (w : Width) (v : Word) : (s.writeData d w v).pc = s.pc := by
  rcases d with i | i <;> simp only [State.writeData, State.writeX_pc]
  rcases w with ⟨b, e⟩; cases b <;> rfl
@[simp] theorem State.writeData_hi (s : State) (d : DataReg) (w : Width) (v : Word) : (s.writeData d w v).hi = s.hi := by
  rcases d with i | i <;> simp only [State.writeData, State.writeX_hi]
  rcases w with ⟨b, e⟩; cases b <;> rfl
@[simp] theorem State.writeData_lo (s : State) (d : DataReg) (w : Width) (v : Word) : (s.writeData d w v).lo = s.lo := by
  rcases d with i | i <;> simp only [State.writeData, State.writeX_lo]
  rcases w with ⟨b, e⟩; cases b <;> rfl
@[simp] theorem State.writeData_llbit (s : State) (d : DataReg) (w : Width) (v : Word) : (s.writeData d w v).llbit = s.llbit := by
  rcases d with i | i <;> simp only [State.writeData, State.writeX_llbit]
  rcases w with ⟨b, e⟩; cases b <;> rfl
@[simp] theorem State.writeData_fcr0 (s : State) (d : DataReg) (w : Width) (v : Word) : (s.writeData d w v).fcr0 = s.fcr0 := by
  rcases d with i | i <;> simp only [State.writeData, State.writeX_fcr0]
  rcases w with ⟨b, e⟩; cases b <;> rfl
@[simp] theorem State.writeData_fcsr (s : State) (d : DataReg) (w : Width) (v : Word) : (s.writeData d w v).fcsr = s.fcsr := by
  rcases d with i | i <;> simp only [State.writeData, State.writeX_fcsr]
  rcases w with ⟨b, e⟩; cases b <;> rfl
@[simp] theorem State.writeData_c0 (s : State) (d : DataReg) (w : Width) (v : Word) : (s.writeData d w v).c0 = s.c0 := by
  rcases d with i | i <;> simp only [State.writeData, State.writeX_c0]
  rcases w with ⟨b, e⟩; cases b <;> rfl
@[simp] theorem State.writeData_mem (s : State) (d : DataReg) (w : Width) (v : Word) : (s.writeData d w v).mem = s.mem := by
  rcases d with i | i <;> simp only [State.writeData, State.writeX_mem]
  rcases w with ⟨b, e⟩; cases b <;> rfl
@[simp] theorem State.writeData_cart (s : State) (d : DataReg) (w : Width) (v : Word) : (s.writeData d w v).cart = s.cart := by
  rcases d with i | i <;> simp only [State.writeData, State.writeX_cart]
  rcases w with ⟨b, e⟩; cases b <;> rfl
@[simp] theorem State.writeData_pi (s : State) (d : DataReg) (w : Width) (v : Word) : (s.writeData d w v).pi = s.pi := by
  rcases d with i | i <;> simp only [State.writeData, State.writeX_pi]
  rcases w with ⟨b, e⟩; cases b <;> rfl
@[simp] theorem State.writeData_block (s : State) (d : DataReg) (w : Width) (v : Word) : (s.writeData d w v).block = s.block := by
  rcases d with i | i <;> simp only [State.writeData, State.writeX_block]
  rcases w with ⟨b, e⟩; cases b <;> rfl
@[simp] theorem State.writeData_latch (s : State) (d : DataReg) (w : Width) (v : Word) : (s.writeData d w v).latch = s.latch := by
  rcases d with i | i <;> simp only [State.writeData, State.writeX_latch]
  rcases w with ⟨b, e⟩; cases b <;> rfl
@[simp] theorem State.writeData_phase (s : State) (d : DataReg) (w : Width) (v : Word) : (s.writeData d w v).phase = s.phase := by
  rcases d with i | i <;> simp only [State.writeData, State.writeX_phase]
  rcases w with ⟨b, e⟩; cases b <;> rfl
@[simp] theorem State.writeData_cfg (s : State) (d : DataReg) (w : Width) (v : Word) : (s.writeData d w v).cfg = s.cfg := by
  rcases d with i | i <;> simp only [State.writeData, State.writeX_cfg]
  rcases w with ⟨b, e⟩; cases b <;> rfl

@[simp] theorem State.advance_pc (s : State) : s.advance.pc = s.nextPc := rfl
@[simp] theorem State.advance_block (s : State) : s.advance.block = s.block.tail := rfl
@[simp] theorem State.advance_latch (s : State) : s.advance.latch = none := rfl
@[simp] theorem State.leaveBlock_block (s : State) : s.leaveBlock.block = [] := rfl
@[simp] theorem State.leaveBlock_latch (s : State) : s.leaveBlock.latch = none := rfl
@[simp] theorem State.halt_phase (s : State) (f : Fatal) : (s.halt f).phase = .halted f := rfl
@[simp] theorem State.enterException_pc (s : State) (c : BitVec 5) (e : BitVec 2) :
    (s.enterException c e).pc = toPc s.cfg (s.cfg.excVector s.bev) := rfl
@[simp] theorem State.enterException_block (s : State) (c : BitVec 5) (e : BitVec 2) :
    (s.enterException c e).block = [] := rfl
@[simp] theorem State.enterException_latch (s : State) (c : BitVec 5) (e : BitVec 2) :
    (s.enterException c e).latch = none := rfl
@[simp] theorem State.enterDelaySlot_pc (s : State) (b : Bool) (a : Word) :
    (s.enterDelaySlot b a).pc = toPc s.cfg (s.pc + 4#64) := rfl
@[simp] theorem State.enterDelaySlot_block (s : State) (b : Bool) (a : Word) :
    (s.enterDelaySlot b a).block = s.block.tail := rfl
@[simp] theorem State.enterDelaySlot_latch (s : State) (b : Bool) (a : Word) :
    (s.enterDelaySlot b a).latch = some { taken := b, target := a, ctAddr := s.pc } := rfl
@[simp] theorem State.nullifyDelaySlot_pc (s : State) :
    s.nullifyDelaySlot.pc = toPc s.cfg (s.pc + 8#64) := rfl
@[simp] theorem State.nullifyDelaySlot_block (s : State) : s.nullifyDelaySlot.block = [] := rfl
@[simp] theorem State.nullifyDelaySlot_latch (s : State) : s.nullifyDelaySlot.latch = none := rfl

/-! ## Reads after writes -/

theorem State.readX_zero (s : State) : s.readX 0 = 0#64 := rfl

theorem State.readX_congr {s t : State} (h : t.x = s.x) (i : RegIdx) : t.readX i = s.readX i := by
  simp only [State.readX, h]

theorem State.readF_congr {s t : State} (h : t.f = s.f) (i : RegIdx) : t.readF i = s.readF i := by
  simp only [State.readF, h]

theorem State.readC0_congr {s t : State} (h : t.c0 = s.c0) (i : RegIdx) : t.readC0 i = s.readC0 i := by
  simp only [State.readC0, h]

theorem State.nextPc_congr {s t : State} (hp : t.pc = s.pc) (hl : t.latch = s.latch)
    (hc : t.cfg = s.cfg) : t.nextPc = s.nextPc := by
  simp only [State.nextPc, hp, hl, hc]

/-- The program counter after an operation is a value of its width. -/
@[simp] theorem State.toPc_nextPc (s : State) : toPc s.cfg s.nextPc = s.nextPc := by
  unfold State.nextPc
  split <;> simp

/-- A write of register 0 is discarded; every other write is seen by the next read. -/
theorem State.readX_writeX_self (s : State) (i : RegIdx) (v : Word) :
    (s.writeX i v).readX i = if i = 0 then 0#64 else v := by
  unfold State.readX State.writeX
  split
  · rfl
  · simp

theorem State.readX_writeX_ne (s : State) {i j : RegIdx} (v : Word) (h : j ≠ i) :
    (s.writeX i v).readX j = s.readX j := by
  unfold State.readX State.writeX
  split
  · rfl
  · split
    · rfl
    · have : (i : Nat) ≠ j := fun e => h (Fin.ext e.symm)
      simp [this]

theorem State.readF_writeF_self (s : State) (i : RegIdx) (v : Word) : (s.writeF i v).readF i = fitWidth s.cfg.fprWidth v := by
  simp [State.readF, State.writeF]

theorem State.readF_writeF_ne (s : State) {i j : RegIdx} (v : Word) (h : j ≠ i) :
    (s.writeF i v).readF j = s.readF j := by
  have : (i : Nat) ≠ j := fun e => h (Fin.ext e.symm)
  simp [State.readF, State.writeF, this]

theorem State.readC0_setC0_self (s : State) (i : RegIdx) (v : Word) :
    (s.setC0 i v).readC0 i = mergeBits (lowBits s.cfg.cp0Width) (s.readC0 i) v := by
  simp [State.readC0, State.setC0]

/-- A slot the hardware writes has the value written, in the width of the slot. -/
@[simp] theorem State.c0Value_setC0_self (s : State) (i : RegIdx) (v : Word) :
    (s.setC0 i v).c0Value i = fitWidth s.cfg.cp0Width v := by
  unfold State.c0Value
  rw [State.readC0_setC0_self]
  exact fitWidth_mergeBits_lowBits _ _ _

/-- A bit of a slot the hardware writes: the new one, where the slot has it. -/
theorem State.getLsbD_setC0_self (s : State) (i : RegIdx) (v : Word) (k : Nat) :
    ((s.setC0 i v).readC0 i).getLsbD k
      = if k < s.cfg.cp0Width.bits then v.getLsbD k else (s.readC0 i).getLsbD k := by
  rw [State.readC0_setC0_self, getLsbD_mergeBits]
  simp

theorem State.readC0_setC0_ne (s : State) {i j : RegIdx} (v : Word) (h : j ≠ i) :
    (s.setC0 i v).readC0 j = s.readC0 j := by
  have : (i : Nat) ≠ j := fun e => h (Fin.ext e.symm)
  simp [State.readC0, State.setC0, this]

theorem State.readC0_writeC0_self (s : State) (i : RegIdx) (v : Word) :
    (s.writeC0 i v).readC0 i = mergeBits (slotMask s.cfg i) (s.readC0 i) v := by
  simp [State.readC0, State.writeC0]

theorem State.readC0_writeC0_ne (s : State) {i j : RegIdx} (v : Word) (h : j ≠ i) :
    (s.writeC0 i v).readC0 j = s.readC0 j := by
  have : (i : Nat) ≠ j := fun e => h (Fin.ext e.symm)
  simp [State.readC0, State.writeC0, this]

/-! ## The control registers after exception entry (60_exceptions.md R480) -/

theorem State.enterException_c0 (s : State) (c : BitVec 5) (e : BitVec 2) :
    (s.enterException c e).c0 = (((s.setC0 14 s.entryEpc).setC0 13 (s.entryCause c e)).setC0 12
      (insertField s.status 1 1#1)).c0 := rfl

/-- EPC is the address that entry saves, in the width of the slot. -/
theorem State.enterException_epc (s : State) (c : BitVec 5) (e : BitVec 2) :
    (s.enterException c e).epc = fitWidth s.cfg.cp0Width s.entryEpc := by
  have h := State.readC0_congr (s.enterException_c0 c e) 14
  rw [State.readC0_setC0_ne _ _ (by decide), State.readC0_setC0_ne _ _ (by decide), State.readC0_setC0_self] at h
  unfold State.epc State.c0Value
  rw [h, State.enterException_cfg]
  exact fitWidth_mergeBits_lowBits _ _ _

/-- A bit of Cause: that of the value entry computes, where the slot has it. -/
theorem State.getLsbD_enterException_cause (s : State) (c : BitVec 5) (e : BitVec 2) (k : Nat) :
    (s.enterException c e).cause.getLsbD k
      = if k < s.cfg.cp0Width.bits then (s.entryCause c e).getLsbD k else s.cause.getLsbD k := by
  unfold State.cause
  rw [State.readC0_congr (s.enterException_c0 c e) 13, State.readC0_setC0_ne _ _ (by decide),
    State.getLsbD_setC0_self, State.readC0_setC0_ne _ _ (by decide)]
  rfl

/-- A bit of Status: `EXL` is set. -/
theorem State.getLsbD_enterException_status (s : State) (c : BitVec 5) (e : BitVec 2) (k : Nat) :
    (s.enterException c e).status.getLsbD k = (decide (k = 1) || s.status.getLsbD k) := by
  have hw := RegWidth_bits_bounds s.cfg.cp0Width
  unfold State.status
  rw [State.readC0_congr (s.enterException_c0 c e) 12, State.getLsbD_setC0_self,
    State.readC0_setC0_ne _ _ (by decide), State.readC0_setC0_ne _ _ (by decide)]
  by_cases h : k < s.cfg.cp0Width.bits
  · rw [if_pos (by simpa using h), getLsbD_insertField _ _ _ (by omega)]
    by_cases hk : k = 1
    · subst hk; simp
    · rw [if_neg (by omega)]; simp [hk, State.status]
  · rw [if_neg (by simpa using h)]
    simp [show k ≠ 1 by omega]

/-- Every other system-control register is as before. -/
theorem State.readC0_enterException_ne (s : State) (c : BitVec 5) (e : BitVec 2) {i : RegIdx} (h12 : i ≠ 12)
    (h13 : i ≠ 13) (h14 : i ≠ 14) : (s.enterException c e).readC0 i = s.readC0 i := by
  rw [State.readC0_congr (s.enterException_c0 c e) i, State.readC0_setC0_ne _ _ h12,
    State.readC0_setC0_ne _ _ h13, State.readC0_setC0_ne _ _ h14]

end Sys2Proof.Machine
end

