-- ==== Sys2Proof/Laws/Control.lean ====
section
/-! SUPPORT. The reserved, constant and read-only bits of the control registers under every write. -/

namespace Sys2Proof.Machine

/-- Replacing bits under a mask leaves every bit of `r`, where the mask has none of them or the new value
agrees there. -/
theorem mergeBits_reserved (m old v r : Word) (h : m &&& v &&& r = m &&& old &&& r) :
    mergeBits m old v &&& r = old &&& r := by
  apply BitVec.eq_of_getLsbD_eq
  intro k _
  have hb := congrArg (fun w => w.getLsbD k) h
  simp only [BitVec.getLsbD_and] at hb
  rw [BitVec.getLsbD_and, BitVec.getLsbD_and, getLsbD_mergeBits]
  split
  · rename_i hm
    simpa [hm] using hb
  · rfl

/-- Software writes no reserved bit. -/
theorem slotMask_reserved (cfg : Params) (i : RegIdx) (v : Word) :
    slotMask cfg i &&& v &&& reservedBits cfg i = 0#64 := by
  apply BitVec.eq_of_getLsbD_eq
  intro k hk
  simp only [slotMask, reservedBits, BitVec.getLsbD_and, BitVec.getLsbD_or, BitVec.getLsbD_not, hk, decide_true,
    Bool.true_and, BitVec.getLsbD_zero]
  cases (writeMask i).getLsbD k <;> cases (lowBits cfg.cp0Width).getLsbD k <;> simp

/-- A field inserted inside the bits hardware may write leaves the reserved bits. -/
theorem insertField_reserved {n : Nat} (old : Word) (lo : Nat) (fld : BitVec n) (r : Word)
    (h : (BitVec.allOnes n).setWidth 64 <<< lo &&& r = 0#64) :
    insertField old lo fld &&& r = old &&& r := by
  unfold insertField
  ext k hk
  have hb := congrArg (fun w => w.getLsbD k) h
  simp only [BitVec.getLsbD_and, BitVec.getLsbD_shiftLeft, BitVec.getLsbD_setWidth,
    BitVec.getLsbD_allOnes, BitVec.getLsbD_zero] at hb
  simp only [BitVec.getElem_and, BitVec.getElem_or, BitVec.getElem_not, BitVec.getElem_shiftLeft,
    BitVec.getElem_setWidth]
  rw [show r.getLsbD k = r[k] from BitVec.getLsbD_eq_getElem hk] at hb
  by_cases hr : r[k] = true
  · rw [hr] at hb ⊢
    by_cases hl : k < lo
    · simp [hl]
    · have hn : ¬(k - lo < n) := by
        intro hlt
        simp [hk, hl, hlt] at hb
        omega
      have : fld.getLsbD (k - lo) = false := BitVec.getLsbD_of_ge _ _ (by omega)
      simp [hl, hn, this]
  · simp at hr
    simp [hr]

/-- Of the bits a slot has, those are reserved that neither software nor hardware writes. -/
theorem lowBits_reserved (cfg : Params) (i : RegIdx) (v : Word) :
    lowBits cfg.cp0Width &&& v &&& reservedBits cfg i
      = v &&& ~~~(writeMask i ||| hardwareMask i) &&& lowBits cfg.cp0Width := by
  apply BitVec.eq_of_getLsbD_eq
  intro k hk
  simp only [reservedBits, BitVec.getLsbD_and, BitVec.getLsbD_or, BitVec.getLsbD_not, hk, decide_true,
    Bool.true_and]
  cases (lowBits cfg.cp0Width).getLsbD k <;> simp

theorem writeC0_controlOk {s : State} (h : s.controlOk) (i : RegIdx) (v : Word) :
    (s.writeC0 i v).controlOk := by
  refine ⟨fun j => ?_, h.2⟩
  by_cases hj : j = i
  · subst hj
    have : (s.writeC0 j v).c0[j] = mergeBits (slotMask s.cfg j) s.c0[j] v := State.readC0_writeC0_self s j v
    rw [this]
    exact (mergeBits_reserved _ _ _ _ ((slotMask_reserved _ _ _).trans (slotMask_reserved _ _ _).symm)).trans
      (h.1 j)
  · have : (s.writeC0 i v).c0[j] = s.c0[j] := State.readC0_writeC0_ne s v hj
    rw [this]
    exact h.1 j

theorem setC0_controlOk {s : State} (h : s.controlOk) (i : RegIdx) (v : Word)
    (hv : v &&& ~~~(writeMask i ||| hardwareMask i) = s.c0[i] &&& ~~~(writeMask i ||| hardwareMask i)) :
    (s.setC0 i v).controlOk := by
  refine ⟨fun j => ?_, h.2⟩
  by_cases hj : j = i
  · subst hj
    have : (s.setC0 j v).c0[j] = mergeBits (lowBits s.cfg.cp0Width) s.c0[j] v := State.readC0_setC0_self s j v
    rw [this]
    refine (mergeBits_reserved _ _ _ _ ?_).trans (h.1 j)
    rw [State.setC0_cfg, lowBits_reserved, lowBits_reserved, hv]
  · have : (s.setC0 i v).c0[j] = s.c0[j] := State.readC0_setC0_ne s v hj
    rw [this]
    exact h.1 j

/-- A state with the same control registers is as good. -/
theorem controlOk_congr {s t : State} (h : s.controlOk) (hc : t.c0 = s.c0) (h0 : t.fcr0 = s.fcr0)
    (hf : t.fcsr = s.fcsr) (hp : t.cfg = s.cfg) : t.controlOk :=
  ⟨fun i => by rw [hc, hp]; exact h.1 i, by rw [h0, hp]; exact h.2.1, by rw [hf]; exact h.2.2⟩

theorem enterException_controlOk {s : State} (h : s.controlOk) (c : BitVec 5) (e : BitVec 2) :
    (s.enterException c e).controlOk := by
  have h1 := setC0_controlOk h 14 s.entryEpc (by
    rw [show ~~~(writeMask 14 ||| hardwareMask 14) = 0#64 from by decide]; simp)
  have h2 := setC0_controlOk h1 13 (s.entryCause c e) (by
    rw [show (s.setC0 14 s.entryEpc).c0[(13 : RegIdx)] = s.cause from State.readC0_setC0_ne s _ (by decide)]
    unfold State.entryCause
    rw [insertField_reserved _ _ _ _ (by decide), insertField_reserved _ _ _ _ (by decide),
      insertField_reserved _ _ _ _ (by decide)])
  have h3 := setC0_controlOk h2 12 (insertField s.status 1 1#1) (by
    rw [show ((s.setC0 14 s.entryEpc).setC0 13 (s.entryCause c e)).c0[(12 : RegIdx)] = s.status from
      (State.readC0_setC0_ne _ _ (by decide)).trans (State.readC0_setC0_ne s _ (by decide))]
    exact insertField_reserved _ _ _ _ (by decide))
  exact controlOk_congr h3 rfl rfl rfl rfl

theorem returnFromException_controlOk {s : State} (h : s.controlOk) :
    s.returnFromException.controlOk := by
  unfold State.returnFromException
  split
  · exact controlOk_congr (setC0_controlOk h 12 (insertField s.status 2 0#1)
      (insertField_reserved _ _ _ _ (by decide))) rfl rfl rfl rfl
  · exact controlOk_congr (setC0_controlOk h 12 (insertField s.status 1 0#1)
      (insertField_reserved _ _ _ _ (by decide))) rfl rfl rfl rfl

theorem writeX_controlOk {s : State} (h : s.controlOk) (i : RegIdx) (v : Word) :
    (s.writeX i v).controlOk := controlOk_congr h (by simp) (by simp) (by simp) (by simp)

end Sys2Proof.Machine
end

