-- ==== Sys2Proof/Laws/Memory.lean ====
section
/-! SUPPORT. What a byte of memory reads as after a write, and that every memory operation keeps the
canonical form. -/

namespace Sys2Proof.Machine

/-! ## One byte -/

theorem Memory.get_set_ne (m : Memory) {a c : Nat} (b : Byte) (h : c ≠ a) :
    (m.set a b).get c = m.get c := by
  induction m with
  | nil =>
    simp only [Memory.set]
    split <;> simp [Memory.get, Ne.symm h]
  | cons e rest ih =>
    obtain ⟨k, v⟩ := e
    simp only [Memory.set]
    split
    · split <;> simp [Memory.get, Ne.symm h]
    · split
      · rename_i hk
        split <;> simp [Memory.get, Ne.symm h, ← hk]
      · simp [Memory.get, ih]

theorem Memory.sortedFrom_cons {lo k : Nat} {v : Byte} {rest : Memory} :
    Memory.sortedFrom lo ((k, v) :: rest) = true ↔
      lo ≤ k ∧ v ≠ Config.unlistedByte ∧ Memory.sortedFrom (k + 1) rest = true := by
  simp [Memory.sortedFrom, and_assoc]

theorem Memory.sortedFrom_mono {m : Memory} {lo hi : Nat} (h : lo ≤ hi)
    (hm : Memory.sortedFrom hi m = true) : Memory.sortedFrom lo m = true := by
  cases m with
  | nil => rfl
  | cons e rest =>
    rw [Memory.sortedFrom_cons] at hm ⊢
    exact ⟨by omega, hm.2⟩

theorem Memory.get_below {m : Memory} {lo a : Nat} (hm : Memory.sortedFrom lo m = true) (h : a < lo) :
    m.get a = Config.unlistedByte := by
  induction m generalizing lo with
  | nil => rfl
  | cons e rest ih =>
    rw [Memory.sortedFrom_cons] at hm
    simp only [Memory.get]
    rw [if_neg (by omega)]
    exact ih hm.2.2 (by omega)

theorem Memory.get_set_self_sorted {m : Memory} {lo : Nat} (hm : Memory.sortedFrom lo m = true) (a : Nat)
    (b : Byte) : (m.set a b).get a = b := by
  induction m generalizing lo with
  | nil =>
    simp only [Memory.set]
    split
    · rename_i h; simp [Memory.get, h]
    · simp [Memory.get]
  | cons e rest ih =>
    obtain ⟨k, v⟩ := e
    have hm' := Memory.sortedFrom_cons.mp hm
    simp only [Memory.set]
    split
    · split
      · rename_i hlt hb
        rw [hb]
        exact Memory.get_below (lo := k) (Memory.sortedFrom_cons.mpr ⟨le_refl k, hm'.2⟩) hlt
      · simp [Memory.get]
    · split
      · split
        · rename_i hk hb
          rw [hb]
          exact Memory.get_below hm'.2.2 (by omega)
        · simp [Memory.get]
      · rename_i hk
        simp only [Memory.get]
        rw [if_neg (fun he => hk he.symm)]
        exact ih hm'.2.2

theorem Memory.set_sorted {m : Memory} {lo a : Nat} (hm : Memory.sortedFrom lo m = true) (h : lo ≤ a)
    (b : Byte) : Memory.sortedFrom lo (m.set a b) = true := by
  induction m generalizing lo with
  | nil =>
    simp only [Memory.set]
    split
    · rfl
    · exact Memory.sortedFrom_cons.mpr ⟨h, by assumption, rfl⟩
  | cons e rest ih =>
    obtain ⟨k, v⟩ := e
    have hm' := Memory.sortedFrom_cons.mp hm
    simp only [Memory.set]
    split
    · split
      · exact hm
      · exact Memory.sortedFrom_cons.mpr
          ⟨h, by assumption, Memory.sortedFrom_cons.mpr ⟨by omega, hm'.2⟩⟩
    · split
      · split
        · exact Memory.sortedFrom_mono (by omega) hm'.2.2
        · exact Memory.sortedFrom_cons.mpr ⟨h, by assumption, by rename_i hk _; rw [hk]; exact hm'.2.2⟩
      · exact Memory.sortedFrom_cons.mpr ⟨hm'.1, hm'.2.1, ih hm'.2.2 (by omega)⟩

theorem Memory.get_set_self {m : Memory} (hm : m.wf = true) (a : Nat) (b : Byte) :
    (m.set a b).get a = b := Memory.get_set_self_sorted hm a b

theorem Memory.set_wf {m : Memory} (hm : m.wf = true) (a : Nat) (b : Byte) : (m.set a b).wf = true :=
  Memory.set_sorted hm (Nat.zero_le a) b

/-- A listed address after a write is the written one or was listed before. -/
theorem Memory.set_keys {p : Nat → Prop} {m : Memory} {a : Nat} {b : Byte} (ha : p a)
    (hm : ∀ c ∈ m, p c.1) : ∀ c ∈ m.set a b, p c.1 := by
  induction m with
  | nil =>
    intro c
    simp only [Memory.set]
    split
    · simp
    · simp only [List.mem_singleton]; rintro rfl; exact ha
  | cons e rest ih =>
    obtain ⟨k, v⟩ := e
    have hk : p k := hm (k, v) (by simp)
    have hr : ∀ c ∈ rest, p c.1 := fun c hc => hm c (by simp [hc])
    intro c
    simp only [Memory.set]
    split
    · split
      · exact hm c
      · simp only [List.mem_cons]
        rintro (rfl | rfl | h)
        · exact ha
        · exact hk
        · exact hr c h
    · split
      · split
        · exact hr c
        · simp only [List.mem_cons]
          rintro (rfl | h)
          · exact ha
          · exact hr c h
      · simp only [List.mem_cons]
        rintro (rfl | h)
        · exact hk
        · exact ih hr c h

/-! ## Consecutive bytes -/

theorem Memory.setBytes_wf {m : Memory} (hm : m.wf = true) (a : Nat) (bs : List Byte) :
    (m.setBytes a bs).wf = true := by
  induction bs generalizing a with
  | nil => exact hm
  | cons b bs ih => exact Memory.set_wf (ih (a + 1)) a b

theorem Memory.setBytes_keys {p : Nat → Prop} {m : Memory} {a : Nat} {bs : List Byte}
    (h : ∀ i, i < bs.length → p (a + i)) (hm : ∀ c ∈ m, p c.1) : ∀ c ∈ m.setBytes a bs, p c.1 := by
  induction bs generalizing a with
  | nil => exact hm
  | cons b bs ih =>
    refine Memory.set_keys (h 0 (by simp)) (ih fun i hi => ?_)
    have := h (i + 1) (by simpa using hi)
    rwa [show a + (i + 1) = a + 1 + i by omega] at this

/-- A byte outside the written range is as before. -/
theorem Memory.get_setBytes_out (m : Memory) {a c : Nat} (bs : List Byte)
    (h : c < a ∨ a + bs.length ≤ c) : (m.setBytes a bs).get c = m.get c := by
  induction bs generalizing a with
  | nil => rfl
  | cons b bs ih =>
    simp only [List.length_cons] at h
    simp only [Memory.setBytes]
    rw [Memory.get_set_ne _ _ (by omega), ih (by omega)]

/-- A byte of the written range is the byte written there. -/
theorem Memory.get_setBytes_in {m : Memory} (hm : m.wf = true) {a i : Nat} {bs : List Byte}
    (h : i < bs.length) : (m.setBytes a bs).get (a + i) = bs[i] := by
  induction bs generalizing a i with
  | nil => simp at h
  | cons b bs ih =>
    simp only [Memory.setBytes]
    cases i with
    | zero => exact Memory.get_set_self (Memory.setBytes_wf hm _ _) a b
    | succ j =>
      rw [Memory.get_set_ne _ _ (by omega)]
      have := ih (a := a + 1) (i := j) (by simpa using h)
      rw [show a + (j + 1) = a + 1 + j by omega, this]
      rfl

/-! ## The bytes of an access -/

theorem writeCells_wf {m : Memory} (hm : m.wf = true) (pa : Nat) (bs : List Byte) :
    (writeCells m pa bs).wf = true := by
  induction bs generalizing m pa with
  | nil => exact hm
  | cons b bs ih => exact ih (Memory.set_wf hm _ _) _

theorem writeCells_keys {p : Nat → Prop} {m : Memory} {pa : Nat} {bs : List Byte}
    (h : ∀ i, i < bs.length → p (cellOf (pa + i))) (hm : ∀ c ∈ m, p c.1) :
    ∀ c ∈ writeCells m pa bs, p c.1 := by
  induction bs generalizing m pa with
  | nil => exact hm
  | cons b bs ih =>
    refine ih (fun i hi => ?_) (Memory.set_keys (h 0 (by simp)) hm)
    have := h (i + 1) (by simpa using hi)
    rwa [show pa + (i + 1) = pa + 1 + i by omega] at this

/-- A byte that is none of the access's bytes is as before. -/
theorem get_writeCells_out (m : Memory) {pa c : Nat} (bs : List Byte)
    (h : ∀ i, i < bs.length → c ≠ cellOf (pa + i)) : (writeCells m pa bs).get c = m.get c := by
  induction bs generalizing m pa with
  | nil => rfl
  | cons b bs ih =>
    simp only [writeCells]
    rw [ih _ (fun i hi => ?_), Memory.get_set_ne _ _ (by simpa using h 0 (by simp))]
    have := h (i + 1) (by simpa using hi)
    rwa [show pa + (i + 1) = pa + 1 + i by omega] at this

/-- A byte of the access is the byte written there, if the access names no byte twice. -/
theorem get_writeCells_in {m : Memory} (hm : m.wf = true) {pa i : Nat} {bs : List Byte}
    (h : i < bs.length)
    (inj : ∀ j k, j < bs.length → k < bs.length → cellOf (pa + j) = cellOf (pa + k) → j = k) :
    (writeCells m pa bs).get (cellOf (pa + i)) = bs[i] := by
  induction bs generalizing m pa i with
  | nil => simp at h
  | cons b bs ih =>
    simp only [writeCells]
    cases i with
    | zero =>
      rw [get_writeCells_out]
      · exact Memory.get_set_self hm (cellOf pa) b
      · intro j hj he
        have := inj 0 (j + 1) (by simp) (by simpa using hj)
          (by rw [show pa + (j + 1) = pa + 1 + j by omega]; exact he)
        omega
    | succ j =>
      rw [show pa + (j + 1) = pa + 1 + j by omega]
      rw [ih (Memory.set_wf hm _ _) (by simpa using h)]
      · rfl
      · intro k l hk hl he
        have := inj (k + 1) (l + 1) (by simpa using hk) (by simpa using hl)
          (by rwa [show pa + (k + 1) = pa + 1 + k by omega, show pa + (l + 1) = pa + 1 + l by omega])
        omega

/-- A byte of the access is the last byte written there. -/
theorem get_writeCells_last {m : Memory} (hm : m.wf = true) {pa i : Nat} {bs : List Byte}
    (h : i < bs.length) (hl : ∀ j < bs.length, i < j → cellOf (pa + j) ≠ cellOf (pa + i)) :
    (writeCells m pa bs).get (cellOf (pa + i)) = bs[i] := by
  induction bs generalizing m pa i with
  | nil => simp at h
  | cons b bs ih =>
    simp only [writeCells]
    cases i with
    | zero =>
      rw [get_writeCells_out]
      · exact Memory.get_set_self hm (cellOf pa) b
      · intro j hj he
        refine hl (j + 1) (by simpa using hj) (by omega) ?_
        rw [show pa + (j + 1) = pa + 1 + j by omega]
        exact he.symm
    | succ j =>
      rw [show pa + (j + 1) = pa + 1 + j by omega, ih (Memory.set_wf hm _ _) (by simpa using h)]
      · rfl
      · intro k hk hlt
        have := hl (k + 1) (by simpa using hk) (by omega)
        rwa [show pa + (k + 1) = pa + 1 + k by omega, show pa + (j + 1) = pa + 1 + j by omega] at this

/-! ## Where the bytes of a row are -/

/-- RAM is no larger than its row. -/
theorem ramSize_le (cfg : Params) : cfg.ramSize.val ≤ 0x04000000 := by
  have := cfg.ramSize.isLt
  omega

theorem rowOf_ram {cfg : Params} {pa : Nat} : rowOf cfg pa = some .ram ↔ pa < cfg.ramSize.val := by
  unfold rowOf
  split
  · rename_i h; exact ⟨fun _ => h, fun _ => rfl⟩
  · rename_i h
    refine ⟨fun e => ?_, fun e => absurd e h⟩
    split at e
    · cases e
    · split at e <;> cases e

theorem rowOf_sp {cfg : Params} {pa : Nat} :
    rowOf cfg pa = some .sp ↔ 0x04000000 ≤ pa ∧ pa ≤ 0x0403FFFF := by
  have hle := ramSize_le cfg
  unfold rowOf
  split
  · exact ⟨fun e => (by cases e), fun e => by omega⟩
  · split
    · rename_i h; exact ⟨fun _ => h, fun _ => rfl⟩
    · rename_i h
      refine ⟨fun e => ?_, fun e => absurd e h⟩
      split at e <;> cases e

theorem rowOf_pi {cfg : Params} {pa : Nat} :
    rowOf cfg pa = some .pi ↔ 0x04600000 ≤ pa ∧ pa ≤ 0x046FFFFF := by
  have hle := ramSize_le cfg
  unfold rowOf
  split
  · exact ⟨fun e => (by cases e), fun e => by omega⟩
  · split
    · rename_i h
      have h' : 0x04000000 ≤ pa ∧ pa ≤ 0x0403FFFF := h
      exact ⟨fun e => (by cases e), fun e => by omega⟩
    · split
      · rename_i h; exact ⟨fun _ => h, fun _ => rfl⟩
      · rename_i h
        exact ⟨fun e => (by cases e), fun e => absurd e h⟩

theorem cellOf_ram {pa : Nat} (h : pa < 0x04000000) : cellOf pa = pa :=
  if_neg (show ¬0x04000000 ≤ pa by omega)

theorem cellOf_sp {pa : Nat} (h : 0x04000000 ≤ pa) :
    cellOf pa = 0x04000000 + (pa - 0x04000000) % 8192 := if_pos h

theorem cellOf_exists {cfg : Params} {pa : Nat}
    (h : rowOf cfg pa = some .ram ∨ rowOf cfg pa = some .sp) : byteExists cfg (cellOf pa) := by
  have hle := ramSize_le cfg
  rw [rowOf_ram, rowOf_sp] at h
  rcases h with h | h
  · rw [cellOf_ram (by omega)]
    exact .inl h
  · rw [cellOf_sp h.1]
    exact .inr (show 0x04000000 ≤ _ ∧ _ < 0x04002000 by omega)

/-- Two bytes less than 8 KiB apart in one memory row are two bytes of memory. -/
theorem cellOf_inj {cfg : Params} {pa j k : Nat} (hr : rowOf cfg (pa + j) = rowOf cfg (pa + k))
    (hm : rowOf cfg (pa + j) = some .ram ∨ rowOf cfg (pa + j) = some .sp) (hj : j < 8192) (hk : k < 8192)
    (h : cellOf (pa + j) = cellOf (pa + k)) : j = k := by
  rcases hm with hm | hm
  · have hk' := hr ▸ hm
    rw [rowOf_ram] at hm hk'
    have hle := ramSize_le cfg
    rw [cellOf_ram (by omega), cellOf_ram (by omega)] at h
    omega
  · have hk' := hr ▸ hm
    rw [rowOf_sp] at hm hk'
    rw [cellOf_sp hm.1, cellOf_sp hk'.1] at h
    omega

theorem dispatch_row {cfg : Params} {pa n i : Nat} {r : Row} (h : dispatch cfg pa n = some r) (hi : i < n) :
    rowOf cfg (pa + i) = some r := by
  simp only [dispatch] at h
  split at h
  · rename_i he
    rw [h] at he
    cases r
    · rw [rowOf_ram] at *; omega
    · rw [rowOf_sp] at *; omega
    · rw [rowOf_pi] at *; omega
  · cases h

/-- The cells of an access of at most 8 KiB to a memory row are different bytes that exist. -/
theorem dispatch_cells {cfg : Params} {pa n : Nat} (h : dispatch cfg pa n = some .ram ∨ dispatch cfg pa n = some .sp)
    (hn : n ≤ 8192) :
    (∀ i, i < n → byteExists cfg (cellOf (pa + i))) ∧
      (∀ j k, j < n → k < n → cellOf (pa + j) = cellOf (pa + k) → j = k) := by
  rcases h with h | h
  · exact ⟨fun i hi => cellOf_exists (.inl (dispatch_row h hi)), fun j k hj hk =>
      cellOf_inj (by rw [dispatch_row h hj, dispatch_row h hk]) (.inl (dispatch_row h hj))
        (by omega) (by omega)⟩
  · exact ⟨fun i hi => cellOf_exists (.inr (dispatch_row h hi)), fun j k hj hk =>
      cellOf_inj (by rw [dispatch_row h hj, dispatch_row h hk]) (.inr (dispatch_row h hj))
        (by omega) (by omega)⟩

/-- The row of an access, by its first and its last byte (20_memory.md R90). -/
theorem dispatch_ram {cfg : Params} {pa n : Nat} (hn : 1 ≤ n) :
    dispatch cfg pa n = some .ram ↔ pa + n ≤ cfg.ramSize.val := by
  constructor
  · intro h
    have hl := dispatch_row h (i := n - 1) (by omega)
    rw [rowOf_ram] at hl
    omega
  · intro h
    unfold dispatch
    rw [rowOf_ram.mpr (show pa < cfg.ramSize.val by omega),
      rowOf_ram.mpr (show pa + (n - 1) < cfg.ramSize.val by omega)]
    rfl

theorem dispatch_sp {cfg : Params} {pa n : Nat} (hn : 1 ≤ n) :
    dispatch cfg pa n = some .sp ↔ 0x04000000 ≤ pa ∧ pa + n ≤ 0x04040000 := by
  constructor
  · intro h
    have hl := dispatch_row h (i := n - 1) (by omega)
    have hf := dispatch_row h (i := 0) (by omega)
    rw [rowOf_sp] at hl hf
    omega
  · intro h
    unfold dispatch
    rw [rowOf_sp.mpr (show 0x04000000 ≤ pa ∧ pa ≤ 0x0403FFFF by omega),
      rowOf_sp.mpr (show 0x04000000 ≤ pa + (n - 1) ∧ pa + (n - 1) ≤ 0x0403FFFF by omega)]
    rfl

theorem dispatch_pi {cfg : Params} {pa n : Nat} (hn : 1 ≤ n) :
    dispatch cfg pa n = some .pi ↔ 0x04600000 ≤ pa ∧ pa + n ≤ 0x04700000 := by
  constructor
  · intro h
    have hl := dispatch_row h (i := n - 1) (by omega)
    have hf := dispatch_row h (i := 0) (by omega)
    rw [rowOf_pi] at hl hf
    omega
  · intro h
    unfold dispatch
    rw [rowOf_pi.mpr (show 0x04600000 ≤ pa ∧ pa ≤ 0x046FFFFF by omega),
      rowOf_pi.mpr (show 0x04600000 ≤ pa + (n - 1) ∧ pa + (n - 1) ≤ 0x046FFFFF by omega)]
    rfl

theorem dispatch_none {cfg : Params} {pa n : Nat} (hn : 1 ≤ n) (hr : ¬ pa + n ≤ cfg.ramSize.val)
    (hs : ¬ (0x04000000 ≤ pa ∧ pa + n ≤ 0x04040000)) (hp : ¬ (0x04600000 ≤ pa ∧ pa + n ≤ 0x04700000)) :
    dispatch cfg pa n = none := by
  cases h : dispatch cfg pa n with
  | none => rfl
  | some r =>
    cases r with
    | ram => exact absurd ((dispatch_ram hn).mp h) hr
    | sp => exact absurd ((dispatch_sp hn).mp h) hs
    | pi => exact absurd ((dispatch_pi hn).mp h) hp

/-- A byte of a memory row is the byte of its cell. -/
theorem rowByte_cellOf (s : State) {a : Nat} (h : a ≤ 0x0403FFFF) : rowByte s a = s.mem.get (cellOf a) := by
  unfold rowByte
  split
  · rename_i hr
    rw [cellOf_ram hr]
    rfl
  · rename_i hr
    rw [cellOf_sp (by omega)]
    split
    · rfl
    · unfold State.imem
      have e1 : Config.spBase = 0x04000000 := rfl
      have e2 : Config.dmemSize = 0x1000 := rfl
      refine congrArg _ ?_
      rw [e1, e2]
      omega

/-! ## Memory before boot -/

theorem initMemory_wf (cfg : Params) : (initMemory cfg).wf = true :=
  Memory.setBytes_wf (Memory.setBytes_wf (m := []) rfl _ _) _ _

theorem initMemory_exists (cfg : Params) : ∀ c ∈ initMemory cfg, byteExists cfg c.1 := by
  have e1 : Config.spBase = 0x04000000 := rfl
  have e2 : Config.dmemSize = 0x1000 := rfl
  have e3 : Config.spMirror = 0x2000 := rfl
  refine Memory.setBytes_keys (fun i hi => .inl ?_) (Memory.setBytes_keys (fun i hi => .inr ?_) ?_)
  · simp only [List.length_take] at hi
    omega
  · simp only [List.length_take] at hi
    omega
  · intro c hc
    cases hc

/-- A byte of a list laid into memory that reads as zero. -/
theorem Memory.get_setBytes_zero {m : Memory} (hm : m.wf = true) (a i : Nat) (bs : List Byte)
    (hz : m.get (a + i) = 0#8) : (m.setBytes a bs).get (a + i) = bs.getD i 0#8 := by
  by_cases h : i < bs.length
  · rw [Memory.get_setBytes_in hm h]
    simp [h]
  · rw [Memory.get_setBytes_out _ _ (by omega), hz]
    simp [h]

theorem initMemory_ram {cfg : Params} {i : Nat} (h : i < cfg.ramSize.val) :
    (initMemory cfg).get i = cfg.initRam.getD i 0#8 := by
  have hle := ramSize_le cfg
  have e1 : Config.spBase = 0x04000000 := rfl
  have := Memory.get_setBytes_zero (m := Memory.setBytes [] (Config.spBase + Config.dmemSize)
    (cfg.initImem.take Config.dmemSize)) (Memory.setBytes_wf (m := []) rfl _ _) 0 i
    (cfg.initRam.take cfg.ramSize.val) (Memory.get_setBytes_out _ _ (.inl (by omega)))
  rw [Nat.zero_add] at this
  refine this.trans ?_
  simp [List.getD_eq_getElem?_getD, h]

theorem initMemory_dmem {cfg : Params} {i : Nat} (h : i < 4096) :
    (initMemory cfg).get (Config.spBase + i) = 0#8 := by
  have hle := ramSize_le cfg
  have e1 : Config.spBase = 0x04000000 := rfl
  have e2 : Config.dmemSize = 4096 := rfl
  unfold initMemory
  rw [Memory.get_setBytes_out _ _ (.inr (by simp only [List.length_take]; omega)),
    Memory.get_setBytes_out _ _ (.inl (by omega))]
  rfl

theorem initMemory_imem {cfg : Params} {i : Nat} (h : i < 4096) :
    (initMemory cfg).get (Config.spBase + Config.dmemSize + i) = cfg.initImem.getD i 0#8 := by
  have hle := ramSize_le cfg
  have e1 : Config.spBase = 0x04000000 := rfl
  have e2 : Config.dmemSize = 4096 := rfl
  unfold initMemory
  rw [Memory.get_setBytes_out _ _ (.inr (by simp only [List.length_take]; omega))]
  refine (Memory.get_setBytes_zero (m := []) rfl _ i _ rfl).trans ?_
  simp [List.getD_eq_getElem?_getD, e2, h]

/-! ## Bytes of a value -/

@[simp] theorem storeBytes_length (v : Word) (n : Nat) : (storeBytes v n).length = n := by
  induction n generalizing v with
  | zero => rfl
  | succ n ih => simp [storeBytes, ih]

@[simp] theorem readCells_length (m : Memory) (pa n : Nat) : (readCells m pa n).length = n := by
  simp [readCells]

end Sys2Proof.Machine
end

