-- ==== Sys2Proof/Laws/Router.lean ====
section
/-! SUPPORT. Everything the memory router can do: one lemma for each of its operations, and its answer
where an access lies in a memory row, in the peripheral-interface window, or nowhere. -/

namespace Sys2Proof.Machine

/-! ## The collaborator -/

theorem referenceRead_length (dram cart : BitVec 32) (pa n : Nat) :
    (referenceRead dram cart pa n).length = n := by
  unfold referenceRead bytesOfRegister
  split
  · simp [*]
  · split <;> simp [*]

theorem Peripheral.read_length (p : Peripheral) (pa n : Nat) : (p.read pa n).1.length = n := by
  cases p with
  | oracle d => simp [Peripheral.read]
  | reference d c => exact referenceRead_length d c pa n

/-! ## What each operation can do -/

/-- `PhysRead` answers `n` bytes and changes the collaborator only, or is fatal and changes nothing. -/
theorem physRead_cases (pa n : Nat) (s : State) :
    (∃ bs p, physRead pa n s = .ok bs { s with pi := p } ∧ bs.length = n) ∨
      physRead pa n s = .fatal (.memoryFault (.address pa)) s := by
  unfold physRead
  split
  · exact .inl ⟨_, s.pi, rfl, readCells_length _ _ _⟩
  · exact .inl ⟨_, s.pi, rfl, readCells_length _ _ _⟩
  · exact .inl ⟨_, _, rfl, Peripheral.read_length _ _ _⟩
  · exact .inr rfl

/-- `RouterRead` answers `n` bytes and changes the collaborator only, or is fatal and changes nothing. -/
theorem routerRead_cases (va : Word) (n : Nat) (s : State) :
    (∃ bs p, routerRead va n s = .ok bs { s with pi := p } ∧ bs.length = n) ∨
      (∃ f, routerRead va n s = .fatal f s) := by
  unfold routerRead
  split
  · rcases physRead_cases _ n s with h | h
    · exact .inl h
    · exact .inr ⟨_, h⟩
  · exact .inr ⟨_, rfl⟩

/-- `Fetch` answers a word and changes the collaborator only, or is fatal and changes nothing. -/
theorem fetch_cases (a : Word) (s : State) :
    (∃ w p, fetch a s = .ok w { s with pi := p }) ∨ (∃ f, fetch a s = .fatal f s) := by
  unfold fetch
  split
  · exact .inr ⟨_, rfl⟩
  · rcases routerRead_cases a 4 s with ⟨bs, p, h, -⟩ | ⟨f, h⟩
    · exact .inl ⟨_, p, by rw [h]⟩
    · exact .inr ⟨f, by rw [h]⟩

/-- `MemRead` answers a value and changes the collaborator only, or is fatal and changes nothing. -/
theorem memRead_cases (a : Word) (n : Nat) (s : State) :
    (∃ v p, memRead a n s = .ok v { s with pi := p }) ∨ (∃ f, memRead a n s = .fatal f s) := by
  unfold memRead
  split
  · exact .inr ⟨_, rfl⟩
  · rcases routerRead_cases a n s with ⟨bs, p, h, -⟩ | ⟨f, h⟩
    · exact .inl ⟨_, p, by rw [h]⟩
    · exact .inr ⟨f, by rw [h]⟩

/-- A memory operation keeps the canonical form and lists only bytes that exist. -/
def KeepsMemory (cfg : Params) (m m' : Memory) : Prop :=
  m.wf = true ∧ (∀ c ∈ m, byteExists cfg c.1) → m'.wf = true ∧ ∀ c ∈ m', byteExists cfg c.1

/-- A state whose memory an operation kept is as good. -/
theorem memoryOk_of_keeps {s t : State} (h : s.memoryOk) (hk : KeepsMemory s.cfg s.mem t.mem)
    (hp : t.cfg = s.cfg) : t.memoryOk := by
  unfold State.memoryOk
  rw [hp]
  exact hk h

/-- A state with the same memory is as good. -/
theorem memoryOk_congr {s t : State} (h : s.memoryOk) (hm : t.mem = s.mem) (hp : t.cfg = s.cfg) :
    t.memoryOk :=
  memoryOk_of_keeps h (by rw [hm]; exact fun h => h) hp

/-- `PhysWrite` of at most 8 KiB writes memory or tells the collaborator, or is fatal and changes nothing. -/
theorem physWrite_cases (pa : Nat) (bs : List Byte) (s : State) (hn : bs.length ≤ 8192) :
    (∃ m, physWrite pa bs s = .ok none { s with mem := m } ∧ KeepsMemory s.cfg s.mem m) ∨
      (∃ d p, physWrite pa bs s = .ok d { s with pi := p }) ∨
      physWrite pa bs s = .fatal (.memoryFault (.address pa)) s := by
  unfold physWrite
  split
  · rename_i h
    exact .inl ⟨_, rfl, fun hm => ⟨writeCells_wf hm.1 _ _,
      writeCells_keys (dispatch_cells (.inl h) hn).1 hm.2⟩⟩
  · rename_i h
    exact .inl ⟨_, rfl, fun hm => ⟨writeCells_wf hm.1 _ _,
      writeCells_keys (dispatch_cells (.inr h) hn).1 hm.2⟩⟩
  · exact .inr (.inl ⟨_, _, rfl⟩)
  · exact .inr (.inr rfl)

/-- `RunDma` writes memory only, or is fatal and changes nothing. -/
theorem runDma_cases (d : DmaDescriptor) (s : State) :
    (∃ m, runDma d s = .ok () { s with mem := m } ∧ KeepsMemory s.cfg s.mem m) ∨
      (∃ f, runDma d s = .fatal f s) := by
  unfold runDma
  split
  · split
    · exact .inr ⟨_, rfl⟩
    · split
      · exact .inr ⟨_, rfl⟩
      · rename_i h
        have hl : (cartWindow s d).length ≤ d.length.toNat := by
          simp only [cartWindow, List.length_take]; omega
        exact .inl ⟨_, rfl, fun hm => ⟨Memory.setBytes_wf hm.1 _ _,
          Memory.setBytes_keys (fun i hi => .inl (by omega)) hm.2⟩⟩
  · split
    · split
      · exact .inr ⟨_, rfl⟩
      · exact .inl ⟨s.mem, rfl, fun hm => hm⟩
    · exact .inr ⟨_, rfl⟩

/-- `RouterWrite` of at most 8 KiB writes memory and tells the collaborator, or is fatal and changes the
collaborator at most. -/
theorem routerWrite_cases (va : Word) (bs : List Byte) (s : State) (hn : bs.length ≤ 8192) :
    (∃ m p, routerWrite va bs s = .ok () { s with mem := m, pi := p } ∧ KeepsMemory s.cfg s.mem m) ∨
      (∃ f p, routerWrite va bs s = .fatal f { s with pi := p }) := by
  unfold routerWrite
  split
  · exact .inr ⟨_, s.pi, rfl⟩
  · rename_i pa _
    rcases physWrite_cases pa bs s hn with ⟨m, h, hk⟩ | ⟨d, p, h⟩ | h
    · exact .inl ⟨m, s.pi, by rw [h], hk⟩
    · cases d with
      | none => exact .inl ⟨s.mem, p, by rw [h], fun hm => hm⟩
      | some d =>
        rcases runDma_cases d { s with pi := p } with ⟨m, hd, hk⟩ | ⟨f, hd⟩
        · exact .inl ⟨m, p, by rw [h]; exact hd, hk⟩
        · exact .inr ⟨f, p, by rw [h]; exact hd⟩
    · exact .inr ⟨_, s.pi, by rw [h]⟩

/-- `MemWrite` writes memory and tells the collaborator, or is fatal and changes the collaborator at
most. -/
theorem memWrite_cases (a : Word) (n : Nat) (v : Word) (s : State) (hn : n ≤ 8192) :
    (∃ m p, memWrite a n v s = .ok () { s with mem := m, pi := p } ∧ KeepsMemory s.cfg s.mem m) ∨
      (∃ f p, memWrite a n v s = .fatal f { s with pi := p }) := by
  unfold memWrite
  split
  · exact .inr ⟨_, s.pi, rfl⟩
  · exact routerWrite_cases a _ s (by simpa using hn)

/-! ## Where an access lies -/

/-- Everything `Translate` answers (20_memory.md R84). -/
theorem translate_eq_some {cfg : Params} {a : BitVec 32} {n pa : Nat} :
    translate cfg a n = some pa ↔ 0xA0000000 ≤ a.toNat ∧ a.toNat < 0xC0000000
      ∧ a.toNat + (n - 1) ≤ 0xBFFFFFFF ∧ cfg.kseg1Base.toNat ≤ a.toNat
      ∧ pa = a.toNat - cfg.kseg1Base.toNat := by
  have htop : a.extractLsb' 29 3 = 0b101#3 ↔ 0xA0000000 ≤ a.toNat ∧ a.toNat < 0xC0000000 := by
    have ha := a.isLt
    rw [← BitVec.toNat_inj, BitVec.extractLsb'_toNat]
    simp only [Nat.shiftRight_eq_div_pow, BitVec.toNat_ofNat]
    omega
  have hlast : Config.kseg1Last = 0xBFFFFFFF := rfl
  unfold translate
  by_cases h1 : a.extractLsb' 29 3 = 0b101#3
  · have h1' := htop.mp h1
    simp only [ne_eq, h1, not_true_eq_false, if_false, hlast]
    split
    · simp only [reduceCtorEq, false_iff]
      omega
    · split
      · simp only [reduceCtorEq, false_iff]
        omega
      · simp only [Option.some.injEq]
        omega
  · simp only [ne_eq, h1, not_false_eq_true, if_true, reduceCtorEq, false_iff]
    exact fun h => h1 (htop.mpr ⟨h.1, h.2.1⟩)

theorem toNat_signExtend_upper {v : BitVec 32} (h : 0x80000000 ≤ v.toNat) :
    (v.signExtend 64).toNat = v.toNat + 0xFFFFFFFF00000000 := by
  have hv := v.isLt
  have hm : v.msb = true := by
    rw [BitVec.msb_eq_decide]
    simpa using h
  rw [BitVec.toNat_signExtend, hm]
  simp only [BitVec.toNat_setWidth, if_true]
  omega

/-- An access inside an access that translates lies as far from its physical address. -/
theorem physical_within {cfg : Params} {va : EffAddr} {n pa m k : Nat} (h : physical cfg va n = some pa)
    (hm : 1 ≤ m) (hk : k + m ≤ n) : physical cfg (va + BitVec.ofNat 64 k) m = some (pa + k) := by
  unfold physical canon at h ⊢
  split at h
  · rename_i hc
    obtain ⟨h1, h2, h3, h4, rfl⟩ := translate_eq_some.mp h
    have hva : va.toNat = (va.setWidth 32).toNat + 0xFFFFFFFF00000000 := by
      rw [← toNat_signExtend_upper (by omega), ← hc]
    have hlow : ((va + BitVec.ofNat 64 k).setWidth 32).toNat = (va.setWidth 32).toNat + k := by
      simp only [BitVec.toNat_setWidth, BitVec.toNat_add, BitVec.toNat_ofNat] at *
      omega
    have hc' : va + BitVec.ofNat 64 k = ((va + BitVec.ofNat 64 k).setWidth 32).signExtend 64 := by
      apply BitVec.eq_of_toNat_eq
      rw [toNat_signExtend_upper (by omega), hlow]
      simp only [BitVec.toNat_add, BitVec.toNat_ofNat]
      omega
    rw [if_pos hc']
    exact translate_eq_some.mpr (by rw [hlow]; omega)
  · cases h

/-- An access inside an access to a memory row lies in that row. -/
theorem dispatch_within {cfg : Params} {pa n m k : Nat}
    (h : dispatch cfg pa n = some .ram ∨ dispatch cfg pa n = some .sp) (hm : 1 ≤ m) (hk : k + m ≤ n) :
    dispatch cfg (pa + k) m = some .ram ∨ dispatch cfg (pa + k) m = some .sp := by
  rw [dispatch_ram (by omega), dispatch_sp (by omega)] at h ⊢
  omega

/-- An aligned access inside an access to a memory row. -/
theorem inMemory_within {cfg : Params} {va : EffAddr} {n pa m k : Nat} (h : inMemory cfg va n pa)
    (hn : n ∈ [1, 2, 4, 8]) (hm : m ∈ [1, 2, 4, 8]) (hk : k % m = 0) (hkm : k + m ≤ n) :
    inMemory cfg (va + BitVec.ofNat 64 k) m (pa + k) := by
  have hm1 : 1 ≤ m := by
    simp only [List.mem_cons, List.not_mem_nil, or_false] at hm
    omega
  refine ⟨?_, physical_within h.2.1 hm1 hkm, dispatch_within h.2.2 hm1 hkm⟩
  have ha := h.1
  simp only [List.mem_cons, List.not_mem_nil, or_false] at hn hm
  rw [BitVec.toNat_add, BitVec.toNat_ofNat]
  rcases hn with rfl | rfl | rfl | rfl <;> rcases hm with rfl | rfl | rfl | rfl <;> omega

theorem isAligned_iff {a : Word} {n : Nat} : isAligned a n = true ↔ a.toNat % n = 0 := by
  simp [isAligned]

theorem routerRead_memory {s : State} {va : Word} {n pa : Nat} (h : inMemory s.cfg va n pa) :
    routerRead va n s = .ok (readCells s.mem pa n) s := by
  obtain ⟨-, hp, hd⟩ := h
  unfold routerRead physRead
  rw [hp]
  rcases hd with hd | hd <;> simp only [hd]

theorem fetch_memory {s : State} {a : Word} {pa : Nat} (h : inMemory s.cfg a 4 pa) :
    fetch a s = .ok (s.byteAt pa 0 ++ s.byteAt pa 1 ++ s.byteAt pa 2 ++ s.byteAt pa 3) s := by
  unfold fetch
  rw [isAligned_iff.mpr h.1, routerRead_memory h]
  rfl

theorem memRead_memory {s : State} {va : Word} {n pa : Nat} (h : inMemory s.cfg va n pa) :
    memRead va n s = .ok (loadValue s.cfg.loadByteOrder (readCells s.mem pa n)) s := by
  unfold memRead
  rw [routerRead_memory h, isAligned_iff.mpr h.1]
  rfl

theorem memRead_window {s : State} {va : Word} {n pa : Nat} (h : inWindow s.cfg va n pa) :
    memRead va n s = .ok (loadValue s.cfg.loadByteOrder (s.pi.read pa n).1)
      { s with pi := (s.pi.read pa n).2 } := by
  unfold memRead routerRead physRead
  rw [h.2.1, isAligned_iff.mpr h.1]
  simp only [h.2.2]
  rfl

theorem memWrite_memory {s : State} {va : Word} {n pa : Nat} (h : inMemory s.cfg va n pa) (v : Word) :
    memWrite va n v s = .ok () { s with mem := writeCells s.mem pa (storeBytes v n) } := by
  obtain ⟨ha, hp, hd⟩ := h
  unfold memWrite routerWrite physWrite
  rw [isAligned_iff.mpr ha, storeBytes_length, hp]
  rcases hd with hd | hd <;> simp only [hd] <;> rfl

theorem memRead_unaligned {va : Word} {n : Nat} (h : va.toNat % n ≠ 0) (s : State) :
    memRead va n s = .fatal (.unsupportedFeature .unalignedAddress) s := by
  unfold memRead
  rw [if_pos (by simpa [isAligned] using h)]

theorem memWrite_unaligned {va : Word} {n : Nat} (h : va.toNat % n ≠ 0) (v : Word) (s : State) :
    memWrite va n v s = .fatal (.unsupportedFeature .unalignedAddress) s := by
  unfold memWrite
  rw [if_pos (by simpa [isAligned] using h)]

theorem memRead_unmapped {s : State} {va : Word} {n : Nat} (ha : va.toNat % n = 0)
    (h : physical s.cfg va n = none) : memRead va n s = .fatal (.unsupportedFeature .unmappedSegment) s := by
  unfold memRead routerRead
  rw [isAligned_iff.mpr ha, h]
  rfl

theorem memWrite_unmapped {s : State} {va : Word} {n : Nat} (ha : va.toNat % n = 0)
    (h : physical s.cfg va n = none) (v : Word) :
    memWrite va n v s = .fatal (.unsupportedFeature .unmappedSegment) s := by
  unfold memWrite routerWrite
  rw [isAligned_iff.mpr ha, storeBytes_length, h]
  rfl

theorem memRead_unbacked {s : State} {va : Word} {n pa : Nat} (ha : va.toNat % n = 0)
    (h : physical s.cfg va n = some pa) (hd : dispatch s.cfg pa n = none) :
    memRead va n s = .fatal (.memoryFault (.address pa)) s := by
  unfold memRead routerRead physRead
  rw [isAligned_iff.mpr ha, h]
  simp only [hd]
  rfl

theorem memWrite_unbacked {s : State} {va : Word} {n pa : Nat} (ha : va.toNat % n = 0)
    (h : physical s.cfg va n = some pa) (hd : dispatch s.cfg pa n = none) (v : Word) :
    memWrite va n v s = .fatal (.memoryFault (.address pa)) s := by
  unfold memWrite routerWrite physWrite
  rw [isAligned_iff.mpr ha, storeBytes_length, h]
  simp only [hd]
  rfl

end Sys2Proof.Machine
end

