-- ==== Sys2Proof/Laws/Engine.lean ====
section
/-! SUPPORT. Everything one operation of the engine can do, and that an instruction's meaning is what the
engine does with its IR operation. -/

namespace Sys2Proof.Machine

/-- What an operation that is `Done` leaves as it was, whatever the operation: where the machine is in
its block, its mode of running, its inputs, the read-only register and the load-linked flag; and what it
keeps: the form of memory, the reserved bits and the widths. -/
structure Ordinary (s s' : State) : Prop where
  pc : s'.pc = s.pc
  block : s'.block = s.block
  latch : s'.latch = s.latch
  phase : s'.phase = s.phase
  cart : s'.cart = s.cart
  cfg : s'.cfg = s.cfg
  llbit : s'.llbit = s.llbit
  mem : KeepsMemory s.cfg s.mem s'.mem
  control : s.controlOk → s'.controlOk
  widths : s.widthsOk → s'.widthsOk

theorem Ordinary.refl (s : State) : Ordinary s s :=
  ⟨rfl, rfl, rfl, rfl, rfl, rfl, rfl, fun h => h, fun h => h, fun h => h⟩

theorem Ordinary.trans {s t u : State} (h : Ordinary s t) (h' : Ordinary t u) : Ordinary s u :=
  ⟨h'.pc.trans h.pc, h'.block.trans h.block, h'.latch.trans h.latch, h'.phase.trans h.phase,
    h'.cart.trans h.cart, h'.cfg.trans h.cfg, h'.llbit.trans h.llbit, fun hm => by
      have := h'.mem
      rw [h.cfg] at this
      exact this (h.mem hm),
    fun hc => h'.control (h.control hc), fun hw => h'.widths (h.widths hw)⟩

/-- A state with the same program counter and floating-point registers is as good. -/
theorem widthsOk_congr {s t : State} (h : s.widthsOk) (hp : t.pc = s.pc) (hf : t.f = s.f)
    (hc : t.cfg = s.cfg) : t.widthsOk :=
  ⟨by rw [hp, hc]; exact h.1, fun i => by rw [State.readF_congr hf, hc]; exact h.2 i⟩

theorem writeF_widthsOk {s : State} (h : s.widthsOk) (i : RegIdx) (v : Word) : (s.writeF i v).widthsOk := by
  refine ⟨h.1, fun j => ?_⟩
  by_cases hj : j = i
  · subst hj
    rw [State.readF_writeF_self]
    exact fitWidth_fitWidth _ _
  · rw [State.readF_writeF_ne s v hj]
    exact h.2 j

theorem writeX_ordinary (s : State) (i : RegIdx) (v : Word) : Ordinary s (s.writeX i v) :=
  ⟨by simp, by simp, by simp, by simp, by simp, by simp, by simp, by simp [KeepsMemory],
    fun h => writeX_controlOk h i v, fun h => widthsOk_congr h (by simp) (by simp) (by simp)⟩

theorem writeF_ordinary (s : State) (i : RegIdx) (v : Word) : Ordinary s (s.writeF i v) :=
  ⟨rfl, rfl, rfl, rfl, rfl, rfl, rfl, fun h => h, fun h => controlOk_congr h rfl rfl rfl rfl,
    fun h => writeF_widthsOk h i v⟩

theorem writeData_ordinary (s : State) (d : DataReg) (w : Width) (v : Word) :
    Ordinary s (s.writeData d w v) := by
  rcases d with i | i
  · exact writeX_ordinary s i _
  · rcases w with ⟨b, e⟩
    cases b <;> exact writeF_ordinary s i _

theorem pi_ordinary (s : State) (p : Peripheral) : Ordinary s { s with pi := p } :=
  ⟨rfl, rfl, rfl, rfl, rfl, rfl, rfl, fun h => h, fun h => controlOk_congr h rfl rfl rfl rfl,
    fun h => widthsOk_congr h rfl rfl rfl⟩

theorem writeAlu_ordinary (s : State) (d : AluDest) (v : Word) : Ordinary s (s.writeAlu d v) := by
  cases d
  · exact writeX_ordinary s _ v
  · exact ⟨rfl, rfl, rfl, rfl, rfl, rfl, rfl, fun h => h, fun h => controlOk_congr h rfl rfl rfl rfl,
      fun h => widthsOk_congr h rfl rfl rfl⟩
  · exact ⟨rfl, rfl, rfl, rfl, rfl, rfl, rfl, fun h => h, fun h => controlOk_congr h rfl rfl rfl rfl,
      fun h => widthsOk_congr h rfl rfl rfl⟩

theorem writeCop_ordinary {s s' : State} {r : CopReg} {v : Word} (h : s.writeCop r v = some s') :
    Ordinary s s' := by
  cases r with
  | c0 i =>
    cases h
    exact ⟨rfl, rfl, rfl, rfl, rfl, rfl, rfl, fun h => h, fun h => writeC0_controlOk h i v,
      fun h => widthsOk_congr h rfl rfl rfl⟩
  | f i => cases h; exact writeF_ordinary s i v
  | fc i =>
    simp only [State.writeCop, State.writeFcr] at h
    split at h
    · cases h; exact Ordinary.refl s
    · split at h
      · cases h
        refine ⟨rfl, rfl, rfl, rfl, rfl, rfl, rfl, fun h => h, fun h => ⟨h.1, h.2.1, ?_⟩,
          fun h => widthsOk_congr h rfl rfl rfl⟩
        show v &&& fcsrMask &&& ~~~fcsrMask = 0#64
        rw [BitVec.and_assoc, BitVec.and_not_self]
        simp
      · cases h

/-- Everything the result of an operation can be, control transfers apart. -/
inductive ResultOf (s : State) : Result → Prop where
  | done {s'} : Ordinary s s' → ResultOf s (.done s')
  | exception (c : BitVec 5) (e : BitVec 2) : ResultOf s (.exception (s.enterException c e))
  | redirected : s.latch = none → ResultOf s (.redirected s.returnFromException)
  | fatal (f : Fatal) (p : Peripheral) : ResultOf s (.fatal f { s with pi := p })

theorem raise_result (s : State) (k : ExcKind) (e : BitVec 2) : ResultOf s (raise k e s) :=
  .exception (excCode k) e

theorem runLoad_result (op : LoadOp) (s : State) : ResultOf s (runLoad op s) := by
  unfold runLoad
  split
  · exact .fatal _ s.pi
  · split
    · exact .fatal _ s.pi
    · split
      · exact raise_result _ _ _
      · split
        · rename_i b off _
          rcases memRead_cases (s.effAddr b off) (bytesOf op.width.bits) s with ⟨v, p, h⟩ | ⟨f, h⟩
          · rw [h]
            exact .done ((pi_ordinary s p).trans (writeData_ordinary _ _ _ _))
          · rw [h]
            exact .fatal f s.pi
        · exact .done (writeData_ordinary s _ _ _)

theorem runStore_result (op : StoreOp) (s : State) : ResultOf s (runStore op s) := by
  unfold runStore
  split
  · exact .fatal _ s.pi
  · split
    · exact .fatal _ s.pi
    · split
      · exact raise_result _ _ _
      · have hn : bytesOf op.width.bits ≤ 8192 := by cases op.width.bits <;> decide
        rcases memWrite_cases (s.effAddr op.base op.offset) (bytesOf op.width.bits)
          (s.readData op.source) s hn with ⟨m, p, h, hk⟩ | ⟨f, p, h⟩
        · rw [h]
          exact .done ⟨rfl, rfl, rfl, rfl, rfl, rfl, rfl, hk, fun h => controlOk_congr h rfl rfl rfl rfl,
            fun h => widthsOk_congr h rfl rfl rfl⟩
        · rw [h]
          exact .fatal f p

theorem runAlu_result (op : AluOp) (s : State) : ResultOf s (runAlu op s) := by
  unfold runAlu
  split
  · exact .done (writeAlu_ordinary s _ _)
  · exact raise_result _ _ _

theorem runMulDiv_result (op : MulDivOp) (s : State) : ResultOf s (runMulDiv op s) :=
  .done ⟨rfl, rfl, rfl, rfl, rfl, rfl, rfl, fun h => h, fun h => controlOk_congr h rfl rfl rfl rfl,
    fun h => widthsOk_congr h rfl rfl rfl⟩

theorem runMove_result (op : MoveOp) (s : State) : ResultOf s (runMove op s) := by
  unfold runMove
  split
  · split
    · exact raise_result _ _ _
    · split
      · exact .done (writeX_ordinary s _ _)
      · exact .fatal _ s.pi
  · split
    · exact raise_result _ _ _
    · split
      · rename_i h
        exact .done (writeCop_ordinary h)
      · exact .fatal _ s.pi

theorem runSystem_result (op : SystemOp) (s : State) : ResultOf s (runSystem op s) := by
  cases op with
  | cache => exact .done (Ordinary.refl s)
  | syscall => exact raise_result _ _ _
  | brk => exact raise_result _ _ _
  | sync => exact .done (Ordinary.refl s)
  | trap c a b =>
    simp only [runSystem]
    split
    · exact raise_result _ _ _
    · exact .done (Ordinary.refl s)
  | tlbr => exact .fatal _ s.pi
  | tlbwi => exact .fatal _ s.pi
  | tlbwr => exact .fatal _ s.pi
  | tlbp => exact .fatal _ s.pi
  | eret =>
    simp only [runSystem]
    split
    · exact .fatal _ s.pi
    · rename_i h
      exact .redirected (by simpa using h)

/-- Everything one step of the engine can answer: always a next state. -/
inductive StepOf (d : Decoded) (s : State) : State → Prop where
  | done {s'} : d.isControlFlow = false → Ordinary s s' → StepOf d s s'.advance
  | exception (c : BitVec 5) (e : BitVec 2) : StepOf d s (s.enterException c e)
  | redirected : s.latch = none → StepOf d s s.returnFromException.leaveBlock
  | fatal (f : Fatal) (p : Peripheral) : StepOf d s { s with pi := p, phase := .halted f }
  | transfer (op : CfOp) : d = .op (.controlFlow op) → s.latch = none → StepOf d s (s.afterTransfer op)

theorem finish_step {d : Decoded} {s : State} {r : Result} (hd : d.isControlFlow = false)
    (h : ResultOf s r) : ∃ t, finish r = .next t ∧ StepOf d s t := by
  cases h with
  | done ho => exact ⟨_, rfl, .done hd ho⟩
  | exception c e => exact ⟨_, rfl, .exception c e⟩
  | redirected hl => exact ⟨_, rfl, .redirected hl⟩
  | fatal f p => exact ⟨_, rfl, .fatal f p⟩

theorem execIr_step (d : Decoded) (s : State) : ∃ t, execIr d s = .next t ∧ StepOf d s t := by
  rcases d with o | cls
  · cases o with
    | load op => exact finish_step rfl (runLoad_result op s)
    | store op => exact finish_step rfl (runStore_result op s)
    | alu op => exact finish_step rfl (runAlu_result op s)
    | mulDiv op => exact finish_step rfl (runMulDiv_result op s)
    | controlFlow op =>
      show ∃ t, runControlFlow op s = .next t ∧ _
      unfold runControlFlow
      split
      · exact ⟨_, rfl, .fatal _ s.pi⟩
      · rename_i hl
        split
        · exact ⟨_, rfl, .exception _ _⟩
        · exact ⟨_, rfl, .transfer op rfl (by simpa using hl)⟩
    | move op => exact finish_step rfl (runMove_result op s)
    | system op => exact finish_step rfl (runSystem_result op s)
    | malformed => exact finish_step rfl (raise_result s .ri 0#2)
  · exact finish_step rfl (.fatal _ s.pi)

/-- The meaning of an instruction is what the engine does with its IR operation. -/
theorem exec_eq_execIr (i : Instr) (s : State) : exec i s = execIr i.ir s := by
  cases i <;> rfl

/-- The step that executes a word is what the engine does with what the word decodes to. -/
theorem execWord_eq_execIr (w : InstrWord) (s : State) : execWord w s = execIr (decodeIr w) s := by
  unfold execWord decodeIr
  cases decodeWord w with
  | none => rfl
  | some i => exact exec_eq_execIr i s

end Sys2Proof.Machine
end

