-- ==== Sys2Proof/Laws/Outcome.lean ====
section
/-! SUPPORT. From what `exec` answers to the terms claims are stated in: one lemma for each shape of
answer. -/

namespace Sys2Proof.Machine

theorem frame_writeX (s : State) (rd : RegIdx) (v : Word) : Frame { x := [rd] } s (s.writeX rd v).advance where
  x := fun i hi => by
    have h : i ≠ rd := by simpa using hi
    show (s.writeX rd v).readX i = s.readX i
    exact State.readX_writeX_ne s v h
  f := fun i _ => by show (s.writeX rd v).f[i] = s.f[i]; simp
  c0 := fun i _ => by show (s.writeX rd v).c0[i] = s.c0[i]; simp
  hi := fun _ => by simp
  lo := fun _ => by simp
  llbit := fun _ => by simp
  fcsr := fun _ => by simp
  mem := fun _ a => by simp
  pi := fun _ => by simp
  fcr0 := by simp
  phase := by simp
  cart := by simp
  cfg := by simp

/-- An instruction that writes one general register and is done. -/
theorem completesWriting_of {i : Instr} {s : State} {rd : RegIdx} {v : Word}
    (h : exec i s = .next (s.writeX rd v).advance) : CompletesWriting i s rd v := by
  refine ⟨_, h, ⟨?_, ?_, rfl, frame_writeX s rd v⟩, ?_⟩
  · show (s.writeX rd v).nextPc = s.nextPc
    simp [State.nextPc]
  · show (s.writeX rd v).block.tail = s.block.tail
    simp
  · show (s.writeX rd v).readX rd = _
    exact State.readX_writeX_self s _ _

/-- An instruction that is done and writes parts of the state that are not general registers: `u` is the
state before the program counter moves. -/
theorem completes_of {i : Instr} {s u : State} {c : Changes} {P : State → Prop}
    (h : exec i s = .next u.advance) (hpc : u.pc = s.pc) (hb : u.block = s.block) (hl : u.latch = s.latch)
    (hf : Frame c s u.advance) (hP : P u.advance) : Completes i s c P := by
  refine ⟨_, h, ⟨?_, ?_, rfl, hf⟩, hP⟩
  · exact State.nextPc_congr hpc hl hf.cfg
  · show u.block.tail = s.block.tail
    rw [hb]

/-- An instruction that is done and changes nothing. -/
theorem completes_nothing {i : Instr} {s : State} (h : exec i s = .next s.advance) :
    Completes i s {} fun _ => True :=
  completes_of h rfl rfl rfl
    ⟨fun _ _ => rfl, fun _ _ => rfl, fun _ _ => rfl, fun _ => rfl, fun _ => rfl, fun _ => rfl, fun _ => rfl,
      fun _ _ => rfl, fun _ => rfl, rfl, rfl, rfl, rfl⟩ trivial

/-- An instruction that writes `HI` and `LO` and is done. -/
theorem completesHiLo_of {i : Instr} {s : State} {hi lo : Word}
    (h : exec i s = .next ({ s with hi := hi, lo := lo } : State).advance) : CompletesHiLo i s hi lo :=
  completes_of h rfl rfl rfl
    ⟨fun _ _ => rfl, fun _ _ => rfl, fun _ _ => rfl, fun e => (by cases e), fun e => (by cases e),
      fun _ => rfl, fun _ => rfl, fun _ _ => rfl, fun _ => rfl, rfl, rfl, rfl, rfl⟩ ⟨rfl, rfl⟩

/-- The registers a link form writes. -/
def linkList : Option RegIdx → List RegIdx
  | none => []
  | some i => [i]

theorem writeLink_frame (s : State) (link : Option RegIdx) :
    Frame { x := linkList link } s (s.writeLink link)
      ∧ (∀ r ∈ linkList link, (s.writeLink link).readX r = if r = 0 then 0#64 else toPc s.cfg (s.pc + 8#64)) := by
  cases link with
  | none =>
    exact ⟨⟨fun _ _ => rfl, fun _ _ => rfl, fun _ _ => rfl, fun _ => rfl, fun _ => rfl, fun _ => rfl,
      fun _ => rfl, fun _ _ => rfl, fun _ => rfl, rfl, rfl, rfl, rfl⟩, by simp [linkList]⟩
  | some i =>
    have h := frame_writeX s i (toPc s.cfg (s.pc + 8#64))
    refine ⟨⟨h.x, h.f, h.c0, h.hi, h.lo, h.llbit, h.fcsr, h.mem, h.pi, h.fcr0, h.phase, h.cart, h.cfg⟩, ?_⟩
    intro r hr
    have hr' : r = i := by simpa [linkList] using hr
    subst hr'
    show (s.writeX r (toPc s.cfg (s.pc + 8#64))).readX r = _
    exact State.readX_writeX_self s _ _

/-- A control transfer whose delay slot will execute. -/
theorem completesTransfer_of {i : Instr} {s : State} {taken : Bool} {target : Word} {link : Option RegIdx}
    (h : exec i s = .next ((s.writeLink link).enterDelaySlot taken target)) :
    CompletesTransfer i s taken target (linkList link) := by
  obtain ⟨hf, hr⟩ := writeLink_frame s link
  have hp : (s.writeLink link).pc = s.pc := by cases link <;> simp [State.writeLink]
  have hb : (s.writeLink link).block = s.block := by cases link <;> simp [State.writeLink]
  refine ⟨_, h, ?_, ?_, ?_, hr, ⟨hf.x, hf.f, hf.c0, hf.hi, hf.lo, hf.llbit, hf.fcsr, hf.mem, hf.pi, hf.fcr0,
    hf.phase, hf.cart, hf.cfg⟩⟩
  · rw [State.enterDelaySlot_pc, hp, State.writeLink_cfg]
  · show (s.writeLink link).block.tail = s.block.tail
    rw [hb]
  · show some { taken := taken, target := target, ctAddr := (s.writeLink link).pc : PendingBranch } = _
    rw [hp]

/-- A likely branch that is not taken. -/
theorem completesNullifying_of {i : Instr} {s : State} {link : Option RegIdx}
    (h : exec i s = .next (s.writeLink link).nullifyDelaySlot) :
    CompletesNullifying i s (linkList link) := by
  obtain ⟨hf, hr⟩ := writeLink_frame s link
  have hp : (s.writeLink link).pc = s.pc := by cases link <;> simp [State.writeLink]
  refine ⟨_, h, ?_, rfl, rfl, hr, ⟨hf.x, hf.f, hf.c0, hf.hi, hf.lo, hf.llbit, hf.fcsr, hf.mem, hf.pi,
    hf.fcr0, hf.phase, hf.cart, hf.cfg⟩⟩
  rw [State.nullifyDelaySlot_pc, hp, State.writeLink_cfg]

end Sys2Proof.Machine
end

