-- ==== Sys2Proof/Laws/Access.lean ====
section
/-! SUPPORT. What a load and a store do, for every address, from the contract of the IR variant; and the
value that bytes form. -/

namespace Sys2Proof.Machine

/-- `n` bytes form a number below 256 to the `n`. -/
theorem bytesNumber_lt (o : ByteOrder) (bs : List Byte) : bytesNumber o bs < 256 ^ bs.length := by
  have little : ∀ l : List Byte, bytesNumber .little l < 256 ^ l.length := by
    intro l
    induction l with
    | nil => simp [bytesNumber]
    | cons b l ih =>
      have hb := b.isLt
      simp only [bytesNumber, List.foldr_cons, List.length_cons, Nat.pow_succ] at *
      omega
  cases o with
  | little => exact little bs
  | big =>
    have h := little bs.reverse
    simp only [bytesNumber, List.foldr_reverse, List.length_reverse] at h
    simpa only [bytesNumber, Nat.add_comm] using h

theorem littleValue_number (bs : List Byte) (h : bs.length ≤ 8) :
    littleValue bs = BitVec.ofNat 64 (bytesNumber .little bs) := by
  induction bs with
  | nil => rfl
  | cons b bs ih =>
    have ih := ih (by simp at h; omega)
    have hlt := bytesNumber_lt .little bs
    have hp : 256 ^ bs.length ≤ 256 ^ 7 := Nat.pow_le_pow_right (by omega) (by simp at h; omega)
    have hb := b.isLt
    apply BitVec.eq_of_toNat_eq
    simp only [littleValue, ih, BitVec.toNat_or, BitVec.toNat_shiftLeft, BitVec.toNat_ofNat, BitVec.toNat_setWidth,
      bytesNumber, List.foldr_cons] at *
    rw [Nat.mod_eq_of_lt (a := List.foldr _ _ _) (by omega), Nat.mod_eq_of_lt (a := b.toNat) (by omega),
      Nat.mod_eq_of_lt (a := _ <<< 8) (by rw [Nat.shiftLeft_eq]; omega),
      ← Nat.shiftLeft_add_eq_or_of_lt hb, Nat.shiftLeft_eq]
    omega

/-- The value loaded is the number the bytes form. -/
theorem loadValue_number (o : ByteOrder) (bs : List Byte) (h : bs.length ≤ 8) :
    loadValue o bs = BitVec.ofNat 64 (bytesNumber o bs) := by
  cases o with
  | little => exact littleValue_number bs h
  | big =>
    have := littleValue_number bs.reverse (by simpa using h)
    simp only [bytesNumber, List.foldr_reverse] at this
    simpa only [loadValue, bytesNumber, Nat.add_comm] using this

/-- The bytes stored are the low bytes of the register. -/
theorem storeBytes_register (v : Word) (n : Nat) : storeBytes v n = registerBytes v n := by
  induction n generalizing v with
  | zero => rfl
  | succ n ih =>
    simp only [storeBytes, registerBytes, List.range_succ_eq_map, List.map_cons, List.map_map, ih]
    congr 1
    apply List.map_congr_left
    intro k _
    apply BitVec.eq_of_getLsbD_eq
    intro j hj
    simp only [Function.comp, BitVec.getLsbD_extractLsb', BitVec.getLsbD_ushiftRight]
    congr 2
    omega

/-- `LWC1` keeps the upper half of the register. -/
theorem upper_low (old v : Word) :
    insertField old 0 (v.setWidth 32) = old.extractLsb' 32 32 ++ v.setWidth 32 := by
  apply BitVec.eq_of_getLsbD_eq
  intro k hk
  simp only [insertField, BitVec.getLsbD_or, BitVec.getLsbD_and, BitVec.getLsbD_not, BitVec.getLsbD_shiftLeft,
    BitVec.getLsbD_setWidth, BitVec.getLsbD_allOnes, BitVec.getLsbD_append, BitVec.getLsbD_extractLsb']
  by_cases h : k < 32
  · simp [h, hk]
  · simp [h, hk, show k - 32 < 32 by omega, show 32 + (k - 32) = k by omega]

theorem bytesAt_length (s : State) (pa n : Nat) : (s.bytesAt pa n).length = n := by simp [State.bytesAt]

/-- The address of a load or store is the effective address of its contract. -/
theorem State.accessAddr_eq (s : State) (base : RegIdx) (offset : BitVec 16) :
    s.accessAddr base offset = s.effAddr base (offset.signExtend 64) := rfl

/-- A load whose form is executed and whose coprocessor is usable. -/
theorem loads_of (i : Instr) (op : LoadOp) (s : State) (b : RegIdx) (off : Word) (n : Nat) (c : Changes)
    (P : List Byte → State → Prop)
    (hi : ∀ s, exec i s = finish (runLoad op s)) (ha : op.aligned = true) (hc : op.conditional = false)
    (hcu : dataRegIsCop1 op.dest = false ∨ s.cu1 = true)
    (hs : op.source = .based b off) (hn : bytesOf op.width.bits = n)
    (hw : ∀ bs p, bs.length = n → ∀ d : Bool, (d = true ∨ p = s.pi) →
      Frame { c with pi := d } s (({ s with pi := p } : State).writeData op.dest op.width
          (loadValue s.cfg.loadByteOrder bs)).advance
        ∧ P bs (({ s with pi := p } : State).writeData op.dest op.width
          (loadValue s.cfg.loadByteOrder bs)).advance)
    (hcp : c.pi = false) :
    Loads i s (s.effAddr b off) n c P := by
  have hr : ∀ v s', memRead (s.effAddr b off) n s = .ok v s' →
      exec i s = .next (s'.writeData op.dest op.width v).advance := by
    intro v s' h
    rw [hi]
    unfold runLoad
    rcases hcu with hcu | hcu <;> simp [ha, hc, hcu, hs, hn, h, finish]
  have hf : ∀ f, memRead (s.effAddr b off) n s = .fatal f s →
      exec i s = .next { s with phase := .halted f } := by
    intro f h
    rw [hi]
    unfold runLoad
    rcases hcu with hcu | hcu <;> simp [ha, hc, hcu, hs, hn, h, finish, State.halt]
  have hcfalse : ({ c with pi := false } : Changes) = c := by cases c; simp_all
  refine ⟨⟨fun h => hf _ (memRead_unaligned h s), fun h1 h2 => hf _ (memRead_unmapped h1 h2),
     fun pa h1 h2 h3 => hf _ (memRead_unbacked h1 h2 h3)⟩, ?_, ?_⟩
  · intro pa h
    have := hw (s.bytesAt pa n) s.pi (bytesAt_length _ _ _) false (.inr rfl)
    rw [hcfalse] at this
    have ho := writeData_ordinary s op.dest op.width (loadValue s.cfg.loadByteOrder (s.bytesAt pa n))
    exact completes_of (hr _ _ (memRead_memory h)) ho.pc ho.block ho.latch this.1 this.2
  · intro pa h
    have := hw (s.pi.read pa n).1 (s.pi.read pa n).2 (Peripheral.read_length _ _ _) true (.inl rfl)
    have ho := (pi_ordinary s (s.pi.read pa n).2).trans (writeData_ordinary
      { s with pi := (s.pi.read pa n).2 } op.dest op.width
      (loadValue s.cfg.loadByteOrder (s.pi.read pa n).1))
    refine completes_of (hr _ _ (memRead_window h)) ho.pc ho.block ho.latch this.1 ⟨?_, this.2⟩
    show (State.writeData _ _ _ _).pi = _
    unfold State.writeData
    split
    · simp
    · split <;> rfl

/-- A load of a general register. -/
theorem loadsRegister_of (i : Instr) (op : LoadOp) (s : State) (b rt : RegIdx) (off : Word) (n : Nat)
    (val : Nat → Word)
    (hi : ∀ s, exec i s = finish (runLoad op s)) (ha : op.aligned = true) (hc : op.conditional = false)
    (hd : op.dest = .g rt)
    (hs : op.source = .based b off) (hn : bytesOf op.width.bits = n) (h8 : n ≤ 8)
    (hv : ∀ x, x < 256 ^ n → extend op.width (BitVec.ofNat 64 x) = val x) :
   LoadsRegister i s (s.effAddr b off) n rt val := by
  refine loads_of i op s b off n _ _ hi ha hc (.inl (by rw [hd]; rfl)) hs hn ?_ rfl
  intro bs p hb d hdd
  have e : ({ s with pi := p } : State).writeData op.dest op.width (loadValue s.cfg.loadByteOrder bs)
     = ({ s with pi := p } : State).writeX rt (val (bytesNumber s.cfg.loadByteOrder bs)) := by
    rw [hd]; simp only [State.writeData]
    have hlt := bytesNumber_lt s.cfg.loadByteOrder bs
    rw [loadValue_number _ _ (by omega), hv _ (by rwa [hb] at hlt)]
  rw [e]
  have hf := frame_writeX ({ s with pi := p } : State) rt (val (bytesNumber s.cfg.loadByteOrder bs))
  constructor
  · refine ⟨hf.x, hf.f, hf.c0, hf.hi, hf.lo, hf.llbit, hf.fcsr, hf.mem, ?_, hf.fcr0, hf.phase, hf.cart, hf.cfg⟩
    intro h
    have h : d = false := h
    subst h
    have := hf.pi rfl
    rw [this]
    simpa using hdd
  · exact State.readX_writeX_self _ _ _

/-- A frame in which memory and the collaborator may change. -/
theorem frame_mem_pi (s : State) (m : Memory) (p : Peripheral) (cm cp : Bool) (hm : cm = true ∨ m = s.mem)
    (hp : cp = true ∨ p = s.pi) :
    Frame { mem := cm, pi := cp } s ({ s with mem := m, pi := p } : State).advance where
  x := fun _ _ => rfl
  f := fun _ _ => rfl
  c0 := fun _ _ => rfl
  hi := fun _ => rfl
  lo := fun _ => rfl
  llbit := fun _ => rfl
  fcsr := fun _ => rfl
  mem := fun h _ => by
    have h : cm = false := h
    simp [State.advance, (by simpa [h] using hm : m = s.mem)]
  pi := fun h => by
    have h : cp = false := h
    simpa [State.advance, h] using hp
  fcr0 := rfl
  phase := rfl
  cart := rfl
  cfg := rfl

/-- What `MemWrite` answers in the window: the collaborator's answer, or the outcome of the DMA. -/
theorem memWrite_window {s : State} {va : Word} {n pa : Nat} (h : inWindow s.cfg va n pa) (v : Word) :
    memWrite va n v s =
      match (s.pi.write pa (registerBytes v n)).1 with
      | none => .ok () { s with pi := (s.pi.write pa (registerBytes v n)).2 }
      | some d => runDma d { s with pi := (s.pi.write pa (registerBytes v n)).2 } := by
  unfold memWrite routerWrite physWrite
  rw [isAligned_iff.mpr h.1, storeBytes_length, h.2.1, storeBytes_register]
  simp only [h.2.2]
  cases hx : (s.pi.write pa (registerBytes v n)).1 <;> simp

/-- A store whose form is executed and whose coprocessor is usable. -/
theorem stores_of (i : Instr) (op : StoreOp) (s : State) (n : Nat)
    (hi : ∀ s, exec i s = finish (runStore op s)) (ha : op.aligned = true) (hc : op.conditional = false)
    (hcu : dataRegIsCop1 op.source = false ∨ s.cu1 = true) (hn : bytesOf op.width.bits = n) (h8 : n ≤ 8)
    {ea v : Word} (hea : s.effAddr op.base op.offset = ea) (hv : s.readData op.source = v) :
    Stores i s ea n v := by
  have hr : ∀ s', memWrite ea n v s = .ok () s' →
      exec i s = .next s'.advance := by
    intro s' h
    rw [hi]
    unfold runStore
    rcases hcu with hcu | hcu <;> simp [ha, hc, hcu, hn, hea, hv, h, finish]
  have hf : ∀ f s', memWrite ea n v s = .fatal f s' →
      exec i s = .next { s' with phase := .halted f } := by
    intro f s' h
    rw [hi]
    unfold runStore
    rcases hcu with hcu | hcu <;> simp [ha, hc, hcu, hn, hea, hv, h, finish, State.halt]
  refine ⟨⟨fun h => hf _ _ (memWrite_unaligned h v s), fun h1 h2 => hf _ _ (memWrite_unmapped h1 h2 v),
    fun pa h1 h2 h3 => hf _ _ (memWrite_unbacked h1 h2 h3 v)⟩, ?_, ?_⟩
  · intro pa h
    refine completes_of (hr _ (memWrite_memory h v)) rfl rfl rfl
      (frame_mem_pi s _ s.pi true false (.inl rfl) (.inr rfl)) ⟨fun a ha => ?_, fun hm k hk => ?_⟩
    · exact get_writeCells_out _ _ (by simpa using ha)
    · have inj := (dispatch_cells h.2.2 (by omega)).2
      refine (get_writeCells_in hm (pa := pa) (i := k) (bs := storeBytes v n) (by simpa using hk)
        (by simpa using inj)).trans ?_
      simp [storeBytes_register, registerBytes]
  · intro pa h
    have hw := memWrite_window h v
    refine ⟨fun hd => ?_, fun d u hd hu => ?_, fun d f u hd hu => ?_⟩
    · rw [hd] at hw
      exact completes_of (hr _ hw) rfl rfl rfl
        (frame_mem_pi s s.mem _ false true (.inr rfl) (.inl rfl)) rfl
    · rw [hd] at hw
      simp only [hu] at hw
      rcases runDma_cases d { s with pi := (s.pi.write pa (registerBytes v n)).2 } with ⟨m, h, -⟩ | ⟨f, h⟩
      · rw [hu] at h
        cases h
        exact completes_of (hr _ hw) rfl rfl rfl
          (frame_mem_pi s m _ true true (.inl rfl) (.inl rfl)) ⟨rfl, rfl⟩
      · rw [hu] at h
        cases h
    · rw [hd] at hw
      simp only [hu] at hw
      rcases runDma_cases d { s with pi := (s.pi.write pa (registerBytes v n)).2 } with ⟨m, h, -⟩ | ⟨f', h⟩
      · rw [hu] at h
        cases h
      · rw [hu] at h
        cases h
        exact hf _ _ hw

end Sys2Proof.Machine
end

