-- ==== Sys2Proof/Laws/PerInstr.lean ====
section
/-! SUPPORT. Statements made per instruction: the IR operation of every instruction is well formed. -/

namespace Sys2Proof

theorem sextImm_low (imm : BitVec 16) : (sextImm imm).extractLsb' 0 16 = imm := by
  ext k hk
  have h : k < 64 := by omega
  simp [sextImm, BitVec.getElem_extractLsb', BitVec.getElem_signExtend, hk, h, BitVec.getLsbD_eq_getElem]

theorem zextImm_low (imm : BitVec 16) : (zextImm imm).extractLsb' 0 16 = imm := by
  ext k hk
  simp [zextImm, BitVec.getElem_extractLsb', hk, BitVec.getLsbD_eq_getElem]
  omega

theorem isSext16_sextImm (imm : BitVec 16) : isSext16 (sextImm imm) = true := by
  unfold isSext16
  rw [sextImm_low]
  simp [sextImm]

theorem isZext16_zextImm (imm : BitVec 16) : isZext16 (zextImm imm) = true := by
  unfold isZext16
  rw [zextImm_low]
  simp [zextImm]

/-- The displacement of a branch is scaled from 16 bits. -/
theorem branchOffset_scaled (imm : BitVec 16) :
    (((branchOffset imm).extractLsb' 2 16).signExtend 64) <<< 2 = branchOffset imm := by
  have h : (branchOffset imm).extractLsb' 2 16 = imm := by
    unfold branchOffset sextImm
    ext k hk
    have h1 : 2 + k < 64 := by omega
    have h2 : ¬ 2 + k ≤ 1 := by omega
    simp [BitVec.getElem_extractLsb', BitVec.getElem_signExtend, hk, h1, h2, BitVec.getLsbD_eq_getElem]
  rw [h]
  rfl

theorem upperImm_low (imm : BitVec 16) : (upperImm imm).extractLsb' 0 16 = 0#16 := by
  have h : (upperImm imm).toNat = imm.toNat * 65536 := by
    exact (BitVec.toNat_append imm 0#16).trans (by simp [Nat.shiftLeft_eq])
  apply BitVec.eq_of_toNat_eq
  simp [BitVec.extractLsb'_toNat, h]

theorem shiftLow_lt (sa : BitVec 5) : (shiftLow sa).ult 32#6 = true := by
  revert sa
  decide

end Sys2Proof

namespace Sys2Proof.Laws.IrWellFormed

set_option Elab.async false
set_option linter.unusedSimpArgs false

/-- The IR operation of the instruction is well formed. -/
def Statement (i : Instr) : Prop := i.wf = true

theorem lb (base : RegIdx) (rt : RegIdx) (offset : BitVec 16) : Statement (.lb base rt offset) := by
  simp [Statement, Instr.wf, Instr.ir, Decoded.wf, IrOp.wf, LoadOp.wf, LoadOp.sourceOk, Width.extOk, floatWidthOk, specialFormOk, DataReg.isG, Bits.isWordSize, loadOp, unalignedLoadOp, linkedLoadOp, luiOp, isSext16_sextImm, upperImm_low]

theorem lbu (base : RegIdx) (rt : RegIdx) (offset : BitVec 16) : Statement (.lbu base rt offset) := by
  simp [Statement, Instr.wf, Instr.ir, Decoded.wf, IrOp.wf, LoadOp.wf, LoadOp.sourceOk, Width.extOk, floatWidthOk, specialFormOk, DataReg.isG, Bits.isWordSize, loadOp, unalignedLoadOp, linkedLoadOp, luiOp, isSext16_sextImm, upperImm_low]

theorem lh (base : RegIdx) (rt : RegIdx) (offset : BitVec 16) : Statement (.lh base rt offset) := by
  simp [Statement, Instr.wf, Instr.ir, Decoded.wf, IrOp.wf, LoadOp.wf, LoadOp.sourceOk, Width.extOk, floatWidthOk, specialFormOk, DataReg.isG, Bits.isWordSize, loadOp, unalignedLoadOp, linkedLoadOp, luiOp, isSext16_sextImm, upperImm_low]

theorem lhu (base : RegIdx) (rt : RegIdx) (offset : BitVec 16) : Statement (.lhu base rt offset) := by
  simp [Statement, Instr.wf, Instr.ir, Decoded.wf, IrOp.wf, LoadOp.wf, LoadOp.sourceOk, Width.extOk, floatWidthOk, specialFormOk, DataReg.isG, Bits.isWordSize, loadOp, unalignedLoadOp, linkedLoadOp, luiOp, isSext16_sextImm, upperImm_low]

theorem lw (base : RegIdx) (rt : RegIdx) (offset : BitVec 16) : Statement (.lw base rt offset) := by
  simp [Statement, Instr.wf, Instr.ir, Decoded.wf, IrOp.wf, LoadOp.wf, LoadOp.sourceOk, Width.extOk, floatWidthOk, specialFormOk, DataReg.isG, Bits.isWordSize, loadOp, unalignedLoadOp, linkedLoadOp, luiOp, isSext16_sextImm, upperImm_low]

theorem lwu (base : RegIdx) (rt : RegIdx) (offset : BitVec 16) : Statement (.lwu base rt offset) := by
  simp [Statement, Instr.wf, Instr.ir, Decoded.wf, IrOp.wf, LoadOp.wf, LoadOp.sourceOk, Width.extOk, floatWidthOk, specialFormOk, DataReg.isG, Bits.isWordSize, loadOp, unalignedLoadOp, linkedLoadOp, luiOp, isSext16_sextImm, upperImm_low]

theorem ld (base : RegIdx) (rt : RegIdx) (offset : BitVec 16) : Statement (.ld base rt offset) := by
  simp [Statement, Instr.wf, Instr.ir, Decoded.wf, IrOp.wf, LoadOp.wf, LoadOp.sourceOk, Width.extOk, floatWidthOk, specialFormOk, DataReg.isG, Bits.isWordSize, loadOp, unalignedLoadOp, linkedLoadOp, luiOp, isSext16_sextImm, upperImm_low]

theorem lwl (base : RegIdx) (rt : RegIdx) (offset : BitVec 16) : Statement (.lwl base rt offset) := by
  simp [Statement, Instr.wf, Instr.ir, Decoded.wf, IrOp.wf, LoadOp.wf, LoadOp.sourceOk, Width.extOk, floatWidthOk, specialFormOk, DataReg.isG, Bits.isWordSize, loadOp, unalignedLoadOp, linkedLoadOp, luiOp, isSext16_sextImm, upperImm_low]

theorem lwr (base : RegIdx) (rt : RegIdx) (offset : BitVec 16) : Statement (.lwr base rt offset) := by
  simp [Statement, Instr.wf, Instr.ir, Decoded.wf, IrOp.wf, LoadOp.wf, LoadOp.sourceOk, Width.extOk, floatWidthOk, specialFormOk, DataReg.isG, Bits.isWordSize, loadOp, unalignedLoadOp, linkedLoadOp, luiOp, isSext16_sextImm, upperImm_low]

theorem ldl (base : RegIdx) (rt : RegIdx) (offset : BitVec 16) : Statement (.ldl base rt offset) := by
  simp [Statement, Instr.wf, Instr.ir, Decoded.wf, IrOp.wf, LoadOp.wf, LoadOp.sourceOk, Width.extOk, floatWidthOk, specialFormOk, DataReg.isG, Bits.isWordSize, loadOp, unalignedLoadOp, linkedLoadOp, luiOp, isSext16_sextImm, upperImm_low]

theorem ldr (base : RegIdx) (rt : RegIdx) (offset : BitVec 16) : Statement (.ldr base rt offset) := by
  simp [Statement, Instr.wf, Instr.ir, Decoded.wf, IrOp.wf, LoadOp.wf, LoadOp.sourceOk, Width.extOk, floatWidthOk, specialFormOk, DataReg.isG, Bits.isWordSize, loadOp, unalignedLoadOp, linkedLoadOp, luiOp, isSext16_sextImm, upperImm_low]

theorem ll (base : RegIdx) (rt : RegIdx) (offset : BitVec 16) : Statement (.ll base rt offset) := by
  simp [Statement, Instr.wf, Instr.ir, Decoded.wf, IrOp.wf, LoadOp.wf, LoadOp.sourceOk, Width.extOk, floatWidthOk, specialFormOk, DataReg.isG, Bits.isWordSize, loadOp, unalignedLoadOp, linkedLoadOp, luiOp, isSext16_sextImm, upperImm_low]

theorem lld (base : RegIdx) (rt : RegIdx) (offset : BitVec 16) : Statement (.lld base rt offset) := by
  simp [Statement, Instr.wf, Instr.ir, Decoded.wf, IrOp.wf, LoadOp.wf, LoadOp.sourceOk, Width.extOk, floatWidthOk, specialFormOk, DataReg.isG, Bits.isWordSize, loadOp, unalignedLoadOp, linkedLoadOp, luiOp, isSext16_sextImm, upperImm_low]

theorem lwc1 (base : RegIdx) (ft : RegIdx) (offset : BitVec 16) : Statement (.lwc1 base ft offset) := by
  simp [Statement, Instr.wf, Instr.ir, Decoded.wf, IrOp.wf, LoadOp.wf, LoadOp.sourceOk, Width.extOk, floatWidthOk, specialFormOk, DataReg.isG, Bits.isWordSize, loadOp, unalignedLoadOp, linkedLoadOp, luiOp, isSext16_sextImm, upperImm_low]

theorem ldc1 (base : RegIdx) (ft : RegIdx) (offset : BitVec 16) : Statement (.ldc1 base ft offset) := by
  simp [Statement, Instr.wf, Instr.ir, Decoded.wf, IrOp.wf, LoadOp.wf, LoadOp.sourceOk, Width.extOk, floatWidthOk, specialFormOk, DataReg.isG, Bits.isWordSize, loadOp, unalignedLoadOp, linkedLoadOp, luiOp, isSext16_sextImm, upperImm_low]

theorem lui (rt : RegIdx) (imm : BitVec 16) : Statement (.lui rt imm) := by
  simp [Statement, Instr.wf, Instr.ir, Decoded.wf, IrOp.wf, LoadOp.wf, LoadOp.sourceOk, Width.extOk, floatWidthOk, specialFormOk, DataReg.isG, Bits.isWordSize, loadOp, unalignedLoadOp, linkedLoadOp, luiOp, isSext16_sextImm, upperImm_low]

theorem sb (base : RegIdx) (rt : RegIdx) (offset : BitVec 16) : Statement (.sb base rt offset) := by
  simp [Statement, Instr.wf, Instr.ir, Decoded.wf, IrOp.wf, StoreOp.wf, StoreOp.extOk, floatWidthOk, specialFormOk, DataReg.isG, Bits.isWordSize, storeOp, unalignedStoreOp, conditionalStoreOp, isSext16_sextImm]

theorem sh (base : RegIdx) (rt : RegIdx) (offset : BitVec 16) : Statement (.sh base rt offset) := by
  simp [Statement, Instr.wf, Instr.ir, Decoded.wf, IrOp.wf, StoreOp.wf, StoreOp.extOk, floatWidthOk, specialFormOk, DataReg.isG, Bits.isWordSize, storeOp, unalignedStoreOp, conditionalStoreOp, isSext16_sextImm]

theorem sw (base : RegIdx) (rt : RegIdx) (offset : BitVec 16) : Statement (.sw base rt offset) := by
  simp [Statement, Instr.wf, Instr.ir, Decoded.wf, IrOp.wf, StoreOp.wf, StoreOp.extOk, floatWidthOk, specialFormOk, DataReg.isG, Bits.isWordSize, storeOp, unalignedStoreOp, conditionalStoreOp, isSext16_sextImm]

theorem sd (base : RegIdx) (rt : RegIdx) (offset : BitVec 16) : Statement (.sd base rt offset) := by
  simp [Statement, Instr.wf, Instr.ir, Decoded.wf, IrOp.wf, StoreOp.wf, StoreOp.extOk, floatWidthOk, specialFormOk, DataReg.isG, Bits.isWordSize, storeOp, unalignedStoreOp, conditionalStoreOp, isSext16_sextImm]

theorem swl (base : RegIdx) (rt : RegIdx) (offset : BitVec 16) : Statement (.swl base rt offset) := by
  simp [Statement, Instr.wf, Instr.ir, Decoded.wf, IrOp.wf, StoreOp.wf, StoreOp.extOk, floatWidthOk, specialFormOk, DataReg.isG, Bits.isWordSize, storeOp, unalignedStoreOp, conditionalStoreOp, isSext16_sextImm]

theorem swr (base : RegIdx) (rt : RegIdx) (offset : BitVec 16) : Statement (.swr base rt offset) := by
  simp [Statement, Instr.wf, Instr.ir, Decoded.wf, IrOp.wf, StoreOp.wf, StoreOp.extOk, floatWidthOk, specialFormOk, DataReg.isG, Bits.isWordSize, storeOp, unalignedStoreOp, conditionalStoreOp, isSext16_sextImm]

theorem sdl (base : RegIdx) (rt : RegIdx) (offset : BitVec 16) : Statement (.sdl base rt offset) := by
  simp [Statement, Instr.wf, Instr.ir, Decoded.wf, IrOp.wf, StoreOp.wf, StoreOp.extOk, floatWidthOk, specialFormOk, DataReg.isG, Bits.isWordSize, storeOp, unalignedStoreOp, conditionalStoreOp, isSext16_sextImm]

theorem sdr (base : RegIdx) (rt : RegIdx) (offset : BitVec 16) : Statement (.sdr base rt offset) := by
  simp [Statement, Instr.wf, Instr.ir, Decoded.wf, IrOp.wf, StoreOp.wf, StoreOp.extOk, floatWidthOk, specialFormOk, DataReg.isG, Bits.isWordSize, storeOp, unalignedStoreOp, conditionalStoreOp, isSext16_sextImm]

theorem sc (base : RegIdx) (rt : RegIdx) (offset : BitVec 16) : Statement (.sc base rt offset) := by
  simp [Statement, Instr.wf, Instr.ir, Decoded.wf, IrOp.wf, StoreOp.wf, StoreOp.extOk, floatWidthOk, specialFormOk, DataReg.isG, Bits.isWordSize, storeOp, unalignedStoreOp, conditionalStoreOp, isSext16_sextImm]

theorem scd (base : RegIdx) (rt : RegIdx) (offset : BitVec 16) : Statement (.scd base rt offset) := by
  simp [Statement, Instr.wf, Instr.ir, Decoded.wf, IrOp.wf, StoreOp.wf, StoreOp.extOk, floatWidthOk, specialFormOk, DataReg.isG, Bits.isWordSize, storeOp, unalignedStoreOp, conditionalStoreOp, isSext16_sextImm]

theorem swc1 (base : RegIdx) (ft : RegIdx) (offset : BitVec 16) : Statement (.swc1 base ft offset) := by
  simp [Statement, Instr.wf, Instr.ir, Decoded.wf, IrOp.wf, StoreOp.wf, StoreOp.extOk, floatWidthOk, specialFormOk, DataReg.isG, Bits.isWordSize, storeOp, unalignedStoreOp, conditionalStoreOp, isSext16_sextImm]

theorem sdc1 (base : RegIdx) (ft : RegIdx) (offset : BitVec 16) : Statement (.sdc1 base ft offset) := by
  simp [Statement, Instr.wf, Instr.ir, Decoded.wf, IrOp.wf, StoreOp.wf, StoreOp.extOk, floatWidthOk, specialFormOk, DataReg.isG, Bits.isWordSize, storeOp, unalignedStoreOp, conditionalStoreOp, isSext16_sextImm]

theorem addi (rs : RegIdx) (rt : RegIdx) (imm : BitVec 16) : Statement (.addi rs rt imm) := by
  simp [Statement, Instr.wf, Instr.ir, Decoded.wf, IrOp.wf, AluOp.wf, AluOp.src1Ok, AluOp.src2Ok, AluOp.destOk, aluImmOp, aluRegOp, shiftOp, copyOp, AluKind.isShift, AluKind.isShift32, isSext16_sextImm, isZext16_zextImm, shiftLow_lt]

theorem addiu (rs : RegIdx) (rt : RegIdx) (imm : BitVec 16) : Statement (.addiu rs rt imm) := by
  simp [Statement, Instr.wf, Instr.ir, Decoded.wf, IrOp.wf, AluOp.wf, AluOp.src1Ok, AluOp.src2Ok, AluOp.destOk, aluImmOp, aluRegOp, shiftOp, copyOp, AluKind.isShift, AluKind.isShift32, isSext16_sextImm, isZext16_zextImm, shiftLow_lt]

theorem slti (rs : RegIdx) (rt : RegIdx) (imm : BitVec 16) : Statement (.slti rs rt imm) := by
  simp [Statement, Instr.wf, Instr.ir, Decoded.wf, IrOp.wf, AluOp.wf, AluOp.src1Ok, AluOp.src2Ok, AluOp.destOk, aluImmOp, aluRegOp, shiftOp, copyOp, AluKind.isShift, AluKind.isShift32, isSext16_sextImm, isZext16_zextImm, shiftLow_lt]

theorem sltiu (rs : RegIdx) (rt : RegIdx) (imm : BitVec 16) : Statement (.sltiu rs rt imm) := by
  simp [Statement, Instr.wf, Instr.ir, Decoded.wf, IrOp.wf, AluOp.wf, AluOp.src1Ok, AluOp.src2Ok, AluOp.destOk, aluImmOp, aluRegOp, shiftOp, copyOp, AluKind.isShift, AluKind.isShift32, isSext16_sextImm, isZext16_zextImm, shiftLow_lt]

theorem andi (rs : RegIdx) (rt : RegIdx) (imm : BitVec 16) : Statement (.andi rs rt imm) := by
  simp [Statement, Instr.wf, Instr.ir, Decoded.wf, IrOp.wf, AluOp.wf, AluOp.src1Ok, AluOp.src2Ok, AluOp.destOk, aluImmOp, aluRegOp, shiftOp, copyOp, AluKind.isShift, AluKind.isShift32, isSext16_sextImm, isZext16_zextImm, shiftLow_lt]

theorem ori (rs : RegIdx) (rt : RegIdx) (imm : BitVec 16) : Statement (.ori rs rt imm) := by
  simp [Statement, Instr.wf, Instr.ir, Decoded.wf, IrOp.wf, AluOp.wf, AluOp.src1Ok, AluOp.src2Ok, AluOp.destOk, aluImmOp, aluRegOp, shiftOp, copyOp, AluKind.isShift, AluKind.isShift32, isSext16_sextImm, isZext16_zextImm, shiftLow_lt]

theorem xori (rs : RegIdx) (rt : RegIdx) (imm : BitVec 16) : Statement (.xori rs rt imm) := by
  simp [Statement, Instr.wf, Instr.ir, Decoded.wf, IrOp.wf, AluOp.wf, AluOp.src1Ok, AluOp.src2Ok, AluOp.destOk, aluImmOp, aluRegOp, shiftOp, copyOp, AluKind.isShift, AluKind.isShift32, isSext16_sextImm, isZext16_zextImm, shiftLow_lt]

theorem daddi (rs : RegIdx) (rt : RegIdx) (imm : BitVec 16) : Statement (.daddi rs rt imm) := by
  simp [Statement, Instr.wf, Instr.ir, Decoded.wf, IrOp.wf, AluOp.wf, AluOp.src1Ok, AluOp.src2Ok, AluOp.destOk, aluImmOp, aluRegOp, shiftOp, copyOp, AluKind.isShift, AluKind.isShift32, isSext16_sextImm, isZext16_zextImm, shiftLow_lt]

theorem daddiu (rs : RegIdx) (rt : RegIdx) (imm : BitVec 16) : Statement (.daddiu rs rt imm) := by
  simp [Statement, Instr.wf, Instr.ir, Decoded.wf, IrOp.wf, AluOp.wf, AluOp.src1Ok, AluOp.src2Ok, AluOp.destOk, aluImmOp, aluRegOp, shiftOp, copyOp, AluKind.isShift, AluKind.isShift32, isSext16_sextImm, isZext16_zextImm, shiftLow_lt]

theorem beq (rs : RegIdx) (rt : RegIdx) (imm : BitVec 16) : Statement (.beq rs rt imm) := by
  simp [Statement, Instr.wf, Instr.ir, Decoded.wf, IrOp.wf, CfOp.wf, CfOp.destinationOk, CfOp.likelyOk, CfOp.linkOk, branchOp, jumpOp, Cond.isAlways, Cond.linkable, branchOffset_scaled]

theorem bne (rs : RegIdx) (rt : RegIdx) (imm : BitVec 16) : Statement (.bne rs rt imm) := by
  simp [Statement, Instr.wf, Instr.ir, Decoded.wf, IrOp.wf, CfOp.wf, CfOp.destinationOk, CfOp.likelyOk, CfOp.linkOk, branchOp, jumpOp, Cond.isAlways, Cond.linkable, branchOffset_scaled]

theorem beql (rs : RegIdx) (rt : RegIdx) (imm : BitVec 16) : Statement (.beql rs rt imm) := by
  simp [Statement, Instr.wf, Instr.ir, Decoded.wf, IrOp.wf, CfOp.wf, CfOp.destinationOk, CfOp.likelyOk, CfOp.linkOk, branchOp, jumpOp, Cond.isAlways, Cond.linkable, branchOffset_scaled]

theorem bnel (rs : RegIdx) (rt : RegIdx) (imm : BitVec 16) : Statement (.bnel rs rt imm) := by
  simp [Statement, Instr.wf, Instr.ir, Decoded.wf, IrOp.wf, CfOp.wf, CfOp.destinationOk, CfOp.likelyOk, CfOp.linkOk, branchOp, jumpOp, Cond.isAlways, Cond.linkable, branchOffset_scaled]

theorem blez (rs : RegIdx) (imm : BitVec 16) : Statement (.blez rs imm) := by
  simp [Statement, Instr.wf, Instr.ir, Decoded.wf, IrOp.wf, CfOp.wf, CfOp.destinationOk, CfOp.likelyOk, CfOp.linkOk, branchOp, jumpOp, Cond.isAlways, Cond.linkable, branchOffset_scaled]

theorem bgtz (rs : RegIdx) (imm : BitVec 16) : Statement (.bgtz rs imm) := by
  simp [Statement, Instr.wf, Instr.ir, Decoded.wf, IrOp.wf, CfOp.wf, CfOp.destinationOk, CfOp.likelyOk, CfOp.linkOk, branchOp, jumpOp, Cond.isAlways, Cond.linkable, branchOffset_scaled]

theorem blezl (rs : RegIdx) (imm : BitVec 16) : Statement (.blezl rs imm) := by
  simp [Statement, Instr.wf, Instr.ir, Decoded.wf, IrOp.wf, CfOp.wf, CfOp.destinationOk, CfOp.likelyOk, CfOp.linkOk, branchOp, jumpOp, Cond.isAlways, Cond.linkable, branchOffset_scaled]

theorem bgtzl (rs : RegIdx) (imm : BitVec 16) : Statement (.bgtzl rs imm) := by
  simp [Statement, Instr.wf, Instr.ir, Decoded.wf, IrOp.wf, CfOp.wf, CfOp.destinationOk, CfOp.likelyOk, CfOp.linkOk, branchOp, jumpOp, Cond.isAlways, Cond.linkable, branchOffset_scaled]

theorem cache (base : RegIdx) (cop : BitVec 5) (offset : BitVec 16) : Statement (.cache base cop offset) := by
  simp [Statement, Instr.wf, Instr.ir, Decoded.wf, IrOp.wf, SystemOp.wf, isSext16_sextImm]

theorem j (index : BitVec 26) : Statement (.j index) := rfl

theorem jal (index : BitVec 26) : Statement (.jal index) := rfl

theorem sll (rt : RegIdx) (rd : RegIdx) (sa : BitVec 5) : Statement (.sll rt rd sa) := by
  simp [Statement, Instr.wf, Instr.ir, Decoded.wf, IrOp.wf, AluOp.wf, AluOp.src1Ok, AluOp.src2Ok, AluOp.destOk, aluImmOp, aluRegOp, shiftOp, copyOp, AluKind.isShift, AluKind.isShift32, isSext16_sextImm, isZext16_zextImm, shiftLow_lt]

theorem srl (rt : RegIdx) (rd : RegIdx) (sa : BitVec 5) : Statement (.srl rt rd sa) := by
  simp [Statement, Instr.wf, Instr.ir, Decoded.wf, IrOp.wf, AluOp.wf, AluOp.src1Ok, AluOp.src2Ok, AluOp.destOk, aluImmOp, aluRegOp, shiftOp, copyOp, AluKind.isShift, AluKind.isShift32, isSext16_sextImm, isZext16_zextImm, shiftLow_lt]

theorem sra (rt : RegIdx) (rd : RegIdx) (sa : BitVec 5) : Statement (.sra rt rd sa) := by
  simp [Statement, Instr.wf, Instr.ir, Decoded.wf, IrOp.wf, AluOp.wf, AluOp.src1Ok, AluOp.src2Ok, AluOp.destOk, aluImmOp, aluRegOp, shiftOp, copyOp, AluKind.isShift, AluKind.isShift32, isSext16_sextImm, isZext16_zextImm, shiftLow_lt]

theorem dsll (rt : RegIdx) (rd : RegIdx) (sa : BitVec 5) : Statement (.dsll rt rd sa) := by
  simp [Statement, Instr.wf, Instr.ir, Decoded.wf, IrOp.wf, AluOp.wf, AluOp.src1Ok, AluOp.src2Ok, AluOp.destOk, aluImmOp, aluRegOp, shiftOp, copyOp, AluKind.isShift, AluKind.isShift32, isSext16_sextImm, isZext16_zextImm, shiftLow_lt]

theorem dsrl (rt : RegIdx) (rd : RegIdx) (sa : BitVec 5) : Statement (.dsrl rt rd sa) := by
  simp [Statement, Instr.wf, Instr.ir, Decoded.wf, IrOp.wf, AluOp.wf, AluOp.src1Ok, AluOp.src2Ok, AluOp.destOk, aluImmOp, aluRegOp, shiftOp, copyOp, AluKind.isShift, AluKind.isShift32, isSext16_sextImm, isZext16_zextImm, shiftLow_lt]

theorem dsra (rt : RegIdx) (rd : RegIdx) (sa : BitVec 5) : Statement (.dsra rt rd sa) := by
  simp [Statement, Instr.wf, Instr.ir, Decoded.wf, IrOp.wf, AluOp.wf, AluOp.src1Ok, AluOp.src2Ok, AluOp.destOk, aluImmOp, aluRegOp, shiftOp, copyOp, AluKind.isShift, AluKind.isShift32, isSext16_sextImm, isZext16_zextImm, shiftLow_lt]

theorem dsll32 (rt : RegIdx) (rd : RegIdx) (sa : BitVec 5) : Statement (.dsll32 rt rd sa) := by
  simp [Statement, Instr.wf, Instr.ir, Decoded.wf, IrOp.wf, AluOp.wf, AluOp.src1Ok, AluOp.src2Ok, AluOp.destOk, aluImmOp, aluRegOp, shiftOp, copyOp, AluKind.isShift, AluKind.isShift32, isSext16_sextImm, isZext16_zextImm, shiftLow_lt]

theorem dsrl32 (rt : RegIdx) (rd : RegIdx) (sa : BitVec 5) : Statement (.dsrl32 rt rd sa) := by
  simp [Statement, Instr.wf, Instr.ir, Decoded.wf, IrOp.wf, AluOp.wf, AluOp.src1Ok, AluOp.src2Ok, AluOp.destOk, aluImmOp, aluRegOp, shiftOp, copyOp, AluKind.isShift, AluKind.isShift32, isSext16_sextImm, isZext16_zextImm, shiftLow_lt]

theorem dsra32 (rt : RegIdx) (rd : RegIdx) (sa : BitVec 5) : Statement (.dsra32 rt rd sa) := by
  simp [Statement, Instr.wf, Instr.ir, Decoded.wf, IrOp.wf, AluOp.wf, AluOp.src1Ok, AluOp.src2Ok, AluOp.destOk, aluImmOp, aluRegOp, shiftOp, copyOp, AluKind.isShift, AluKind.isShift32, isSext16_sextImm, isZext16_zextImm, shiftLow_lt]

theorem sllv (rs : RegIdx) (rt : RegIdx) (rd : RegIdx) : Statement (.sllv rs rt rd) := by
  simp [Statement, Instr.wf, Instr.ir, Decoded.wf, IrOp.wf, AluOp.wf, AluOp.src1Ok, AluOp.src2Ok, AluOp.destOk, aluImmOp, aluRegOp, shiftOp, copyOp, AluKind.isShift, AluKind.isShift32, isSext16_sextImm, isZext16_zextImm, shiftLow_lt]

theorem srlv (rs : RegIdx) (rt : RegIdx) (rd : RegIdx) : Statement (.srlv rs rt rd) := by
  simp [Statement, Instr.wf, Instr.ir, Decoded.wf, IrOp.wf, AluOp.wf, AluOp.src1Ok, AluOp.src2Ok, AluOp.destOk, aluImmOp, aluRegOp, shiftOp, copyOp, AluKind.isShift, AluKind.isShift32, isSext16_sextImm, isZext16_zextImm, shiftLow_lt]

theorem srav (rs : RegIdx) (rt : RegIdx) (rd : RegIdx) : Statement (.srav rs rt rd) := by
  simp [Statement, Instr.wf, Instr.ir, Decoded.wf, IrOp.wf, AluOp.wf, AluOp.src1Ok, AluOp.src2Ok, AluOp.destOk, aluImmOp, aluRegOp, shiftOp, copyOp, AluKind.isShift, AluKind.isShift32, isSext16_sextImm, isZext16_zextImm, shiftLow_lt]

theorem dsllv (rs : RegIdx) (rt : RegIdx) (rd : RegIdx) : Statement (.dsllv rs rt rd) := by
  simp [Statement, Instr.wf, Instr.ir, Decoded.wf, IrOp.wf, AluOp.wf, AluOp.src1Ok, AluOp.src2Ok, AluOp.destOk, aluImmOp, aluRegOp, shiftOp, copyOp, AluKind.isShift, AluKind.isShift32, isSext16_sextImm, isZext16_zextImm, shiftLow_lt]

theorem dsrlv (rs : RegIdx) (rt : RegIdx) (rd : RegIdx) : Statement (.dsrlv rs rt rd) := by
  simp [Statement, Instr.wf, Instr.ir, Decoded.wf, IrOp.wf, AluOp.wf, AluOp.src1Ok, AluOp.src2Ok, AluOp.destOk, aluImmOp, aluRegOp, shiftOp, copyOp, AluKind.isShift, AluKind.isShift32, isSext16_sextImm, isZext16_zextImm, shiftLow_lt]

theorem dsrav (rs : RegIdx) (rt : RegIdx) (rd : RegIdx) : Statement (.dsrav rs rt rd) := by
  simp [Statement, Instr.wf, Instr.ir, Decoded.wf, IrOp.wf, AluOp.wf, AluOp.src1Ok, AluOp.src2Ok, AluOp.destOk, aluImmOp, aluRegOp, shiftOp, copyOp, AluKind.isShift, AluKind.isShift32, isSext16_sextImm, isZext16_zextImm, shiftLow_lt]

theorem add (rs : RegIdx) (rt : RegIdx) (rd : RegIdx) : Statement (.add rs rt rd) := by
  simp [Statement, Instr.wf, Instr.ir, Decoded.wf, IrOp.wf, AluOp.wf, AluOp.src1Ok, AluOp.src2Ok, AluOp.destOk, aluImmOp, aluRegOp, shiftOp, copyOp, AluKind.isShift, AluKind.isShift32, isSext16_sextImm, isZext16_zextImm, shiftLow_lt]

theorem addu (rs : RegIdx) (rt : RegIdx) (rd : RegIdx) : Statement (.addu rs rt rd) := by
  simp [Statement, Instr.wf, Instr.ir, Decoded.wf, IrOp.wf, AluOp.wf, AluOp.src1Ok, AluOp.src2Ok, AluOp.destOk, aluImmOp, aluRegOp, shiftOp, copyOp, AluKind.isShift, AluKind.isShift32, isSext16_sextImm, isZext16_zextImm, shiftLow_lt]

theorem sub (rs : RegIdx) (rt : RegIdx) (rd : RegIdx) : Statement (.sub rs rt rd) := by
  simp [Statement, Instr.wf, Instr.ir, Decoded.wf, IrOp.wf, AluOp.wf, AluOp.src1Ok, AluOp.src2Ok, AluOp.destOk, aluImmOp, aluRegOp, shiftOp, copyOp, AluKind.isShift, AluKind.isShift32, isSext16_sextImm, isZext16_zextImm, shiftLow_lt]

theorem subu (rs : RegIdx) (rt : RegIdx) (rd : RegIdx) : Statement (.subu rs rt rd) := by
  simp [Statement, Instr.wf, Instr.ir, Decoded.wf, IrOp.wf, AluOp.wf, AluOp.src1Ok, AluOp.src2Ok, AluOp.destOk, aluImmOp, aluRegOp, shiftOp, copyOp, AluKind.isShift, AluKind.isShift32, isSext16_sextImm, isZext16_zextImm, shiftLow_lt]

theorem and (rs : RegIdx) (rt : RegIdx) (rd : RegIdx) : Statement (.and rs rt rd) := by
  simp [Statement, Instr.wf, Instr.ir, Decoded.wf, IrOp.wf, AluOp.wf, AluOp.src1Ok, AluOp.src2Ok, AluOp.destOk, aluImmOp, aluRegOp, shiftOp, copyOp, AluKind.isShift, AluKind.isShift32, isSext16_sextImm, isZext16_zextImm, shiftLow_lt]

theorem or (rs : RegIdx) (rt : RegIdx) (rd : RegIdx) : Statement (.or rs rt rd) := by
  simp [Statement, Instr.wf, Instr.ir, Decoded.wf, IrOp.wf, AluOp.wf, AluOp.src1Ok, AluOp.src2Ok, AluOp.destOk, aluImmOp, aluRegOp, shiftOp, copyOp, AluKind.isShift, AluKind.isShift32, isSext16_sextImm, isZext16_zextImm, shiftLow_lt]

theorem xor (rs : RegIdx) (rt : RegIdx) (rd : RegIdx) : Statement (.xor rs rt rd) := by
  simp [Statement, Instr.wf, Instr.ir, Decoded.wf, IrOp.wf, AluOp.wf, AluOp.src1Ok, AluOp.src2Ok, AluOp.destOk, aluImmOp, aluRegOp, shiftOp, copyOp, AluKind.isShift, AluKind.isShift32, isSext16_sextImm, isZext16_zextImm, shiftLow_lt]

theorem nor (rs : RegIdx) (rt : RegIdx) (rd : RegIdx) : Statement (.nor rs rt rd) := by
  simp [Statement, Instr.wf, Instr.ir, Decoded.wf, IrOp.wf, AluOp.wf, AluOp.src1Ok, AluOp.src2Ok, AluOp.destOk, aluImmOp, aluRegOp, shiftOp, copyOp, AluKind.isShift, AluKind.isShift32, isSext16_sextImm, isZext16_zextImm, shiftLow_lt]

theorem slt (rs : RegIdx) (rt : RegIdx) (rd : RegIdx) : Statement (.slt rs rt rd) := by
  simp [Statement, Instr.wf, Instr.ir, Decoded.wf, IrOp.wf, AluOp.wf, AluOp.src1Ok, AluOp.src2Ok, AluOp.destOk, aluImmOp, aluRegOp, shiftOp, copyOp, AluKind.isShift, AluKind.isShift32, isSext16_sextImm, isZext16_zextImm, shiftLow_lt]

theorem sltu (rs : RegIdx) (rt : RegIdx) (rd : RegIdx) : Statement (.sltu rs rt rd) := by
  simp [Statement, Instr.wf, Instr.ir, Decoded.wf, IrOp.wf, AluOp.wf, AluOp.src1Ok, AluOp.src2Ok, AluOp.destOk, aluImmOp, aluRegOp, shiftOp, copyOp, AluKind.isShift, AluKind.isShift32, isSext16_sextImm, isZext16_zextImm, shiftLow_lt]

theorem dadd (rs : RegIdx) (rt : RegIdx) (rd : RegIdx) : Statement (.dadd rs rt rd) := by
  simp [Statement, Instr.wf, Instr.ir, Decoded.wf, IrOp.wf, AluOp.wf, AluOp.src1Ok, AluOp.src2Ok, AluOp.destOk, aluImmOp, aluRegOp, shiftOp, copyOp, AluKind.isShift, AluKind.isShift32, isSext16_sextImm, isZext16_zextImm, shiftLow_lt]

theorem daddu (rs : RegIdx) (rt : RegIdx) (rd : RegIdx) : Statement (.daddu rs rt rd) := by
  simp [Statement, Instr.wf, Instr.ir, Decoded.wf, IrOp.wf, AluOp.wf, AluOp.src1Ok, AluOp.src2Ok, AluOp.destOk, aluImmOp, aluRegOp, shiftOp, copyOp, AluKind.isShift, AluKind.isShift32, isSext16_sextImm, isZext16_zextImm, shiftLow_lt]

theorem dsub (rs : RegIdx) (rt : RegIdx) (rd : RegIdx) : Statement (.dsub rs rt rd) := by
  simp [Statement, Instr.wf, Instr.ir, Decoded.wf, IrOp.wf, AluOp.wf, AluOp.src1Ok, AluOp.src2Ok, AluOp.destOk, aluImmOp, aluRegOp, shiftOp, copyOp, AluKind.isShift, AluKind.isShift32, isSext16_sextImm, isZext16_zextImm, shiftLow_lt]

theorem dsubu (rs : RegIdx) (rt : RegIdx) (rd : RegIdx) : Statement (.dsubu rs rt rd) := by
  simp [Statement, Instr.wf, Instr.ir, Decoded.wf, IrOp.wf, AluOp.wf, AluOp.src1Ok, AluOp.src2Ok, AluOp.destOk, aluImmOp, aluRegOp, shiftOp, copyOp, AluKind.isShift, AluKind.isShift32, isSext16_sextImm, isZext16_zextImm, shiftLow_lt]

theorem mult (rs : RegIdx) (rt : RegIdx) : Statement (.mult rs rt) := rfl

theorem multu (rs : RegIdx) (rt : RegIdx) : Statement (.multu rs rt) := rfl

theorem div (rs : RegIdx) (rt : RegIdx) : Statement (.div rs rt) := rfl

theorem divu (rs : RegIdx) (rt : RegIdx) : Statement (.divu rs rt) := rfl

theorem dmult (rs : RegIdx) (rt : RegIdx) : Statement (.dmult rs rt) := rfl

theorem dmultu (rs : RegIdx) (rt : RegIdx) : Statement (.dmultu rs rt) := rfl

theorem ddiv (rs : RegIdx) (rt : RegIdx) : Statement (.ddiv rs rt) := rfl

theorem ddivu (rs : RegIdx) (rt : RegIdx) : Statement (.ddivu rs rt) := rfl

theorem mfhi (rd : RegIdx) : Statement (.mfhi rd) := by
  simp [Statement, Instr.wf, Instr.ir, Decoded.wf, IrOp.wf, AluOp.wf, AluOp.src1Ok, AluOp.src2Ok, AluOp.destOk, aluImmOp, aluRegOp, shiftOp, copyOp, AluKind.isShift, AluKind.isShift32, isSext16_sextImm, isZext16_zextImm, shiftLow_lt]

theorem mflo (rd : RegIdx) : Statement (.mflo rd) := by
  simp [Statement, Instr.wf, Instr.ir, Decoded.wf, IrOp.wf, AluOp.wf, AluOp.src1Ok, AluOp.src2Ok, AluOp.destOk, aluImmOp, aluRegOp, shiftOp, copyOp, AluKind.isShift, AluKind.isShift32, isSext16_sextImm, isZext16_zextImm, shiftLow_lt]

theorem mthi (rs : RegIdx) : Statement (.mthi rs) := by
  simp [Statement, Instr.wf, Instr.ir, Decoded.wf, IrOp.wf, AluOp.wf, AluOp.src1Ok, AluOp.src2Ok, AluOp.destOk, aluImmOp, aluRegOp, shiftOp, copyOp, AluKind.isShift, AluKind.isShift32, isSext16_sextImm, isZext16_zextImm, shiftLow_lt]

theorem mtlo (rs : RegIdx) : Statement (.mtlo rs) := by
  simp [Statement, Instr.wf, Instr.ir, Decoded.wf, IrOp.wf, AluOp.wf, AluOp.src1Ok, AluOp.src2Ok, AluOp.destOk, aluImmOp, aluRegOp, shiftOp, copyOp, AluKind.isShift, AluKind.isShift32, isSext16_sextImm, isZext16_zextImm, shiftLow_lt]

theorem jr (rs : RegIdx) : Statement (.jr rs) := rfl

theorem jalr (rs : RegIdx) (rd : RegIdx) : Statement (.jalr rs rd) := rfl

theorem syscall (code : BitVec 20) : Statement (.syscall code) := rfl

theorem brk (code : BitVec 20) : Statement (.brk code) := rfl

theorem sync : Statement .sync := rfl

theorem tge (rs : RegIdx) (rt : RegIdx) : Statement (.tge rs rt) := rfl

theorem tgeu (rs : RegIdx) (rt : RegIdx) : Statement (.tgeu rs rt) := rfl

theorem tlt (rs : RegIdx) (rt : RegIdx) : Statement (.tlt rs rt) := rfl

theorem tltu (rs : RegIdx) (rt : RegIdx) : Statement (.tltu rs rt) := rfl

theorem teq (rs : RegIdx) (rt : RegIdx) : Statement (.teq rs rt) := rfl

theorem tne (rs : RegIdx) (rt : RegIdx) : Statement (.tne rs rt) := rfl

theorem bltz (rs : RegIdx) (imm : BitVec 16) : Statement (.bltz rs imm) := by
  simp [Statement, Instr.wf, Instr.ir, Decoded.wf, IrOp.wf, CfOp.wf, CfOp.destinationOk, CfOp.likelyOk, CfOp.linkOk, branchOp, jumpOp, Cond.isAlways, Cond.linkable, branchOffset_scaled]

theorem bgez (rs : RegIdx) (imm : BitVec 16) : Statement (.bgez rs imm) := by
  simp [Statement, Instr.wf, Instr.ir, Decoded.wf, IrOp.wf, CfOp.wf, CfOp.destinationOk, CfOp.likelyOk, CfOp.linkOk, branchOp, jumpOp, Cond.isAlways, Cond.linkable, branchOffset_scaled]

theorem bltzl (rs : RegIdx) (imm : BitVec 16) : Statement (.bltzl rs imm) := by
  simp [Statement, Instr.wf, Instr.ir, Decoded.wf, IrOp.wf, CfOp.wf, CfOp.destinationOk, CfOp.likelyOk, CfOp.linkOk, branchOp, jumpOp, Cond.isAlways, Cond.linkable, branchOffset_scaled]

theorem bgezl (rs : RegIdx) (imm : BitVec 16) : Statement (.bgezl rs imm) := by
  simp [Statement, Instr.wf, Instr.ir, Decoded.wf, IrOp.wf, CfOp.wf, CfOp.destinationOk, CfOp.likelyOk, CfOp.linkOk, branchOp, jumpOp, Cond.isAlways, Cond.linkable, branchOffset_scaled]

theorem bltzal (rs : RegIdx) (imm : BitVec 16) : Statement (.bltzal rs imm) := by
  simp [Statement, Instr.wf, Instr.ir, Decoded.wf, IrOp.wf, CfOp.wf, CfOp.destinationOk, CfOp.likelyOk, CfOp.linkOk, branchOp, jumpOp, Cond.isAlways, Cond.linkable, branchOffset_scaled]

theorem bgezal (rs : RegIdx) (imm : BitVec 16) : Statement (.bgezal rs imm) := by
  simp [Statement, Instr.wf, Instr.ir, Decoded.wf, IrOp.wf, CfOp.wf, CfOp.destinationOk, CfOp.likelyOk, CfOp.linkOk, branchOp, jumpOp, Cond.isAlways, Cond.linkable, branchOffset_scaled]

theorem bltzall (rs : RegIdx) (imm : BitVec 16) : Statement (.bltzall rs imm) := by
  simp [Statement, Instr.wf, Instr.ir, Decoded.wf, IrOp.wf, CfOp.wf, CfOp.destinationOk, CfOp.likelyOk, CfOp.linkOk, branchOp, jumpOp, Cond.isAlways, Cond.linkable, branchOffset_scaled]

theorem bgezall (rs : RegIdx) (imm : BitVec 16) : Statement (.bgezall rs imm) := by
  simp [Statement, Instr.wf, Instr.ir, Decoded.wf, IrOp.wf, CfOp.wf, CfOp.destinationOk, CfOp.likelyOk, CfOp.linkOk, branchOp, jumpOp, Cond.isAlways, Cond.linkable, branchOffset_scaled]

theorem tgei (rs : RegIdx) (imm : BitVec 16) : Statement (.tgei rs imm) := by
  simp [Statement, Instr.wf, Instr.ir, Decoded.wf, IrOp.wf, SystemOp.wf, isSext16_sextImm]

theorem tgeiu (rs : RegIdx) (imm : BitVec 16) : Statement (.tgeiu rs imm) := by
  simp [Statement, Instr.wf, Instr.ir, Decoded.wf, IrOp.wf, SystemOp.wf, isSext16_sextImm]

theorem tlti (rs : RegIdx) (imm : BitVec 16) : Statement (.tlti rs imm) := by
  simp [Statement, Instr.wf, Instr.ir, Decoded.wf, IrOp.wf, SystemOp.wf, isSext16_sextImm]

theorem tltiu (rs : RegIdx) (imm : BitVec 16) : Statement (.tltiu rs imm) := by
  simp [Statement, Instr.wf, Instr.ir, Decoded.wf, IrOp.wf, SystemOp.wf, isSext16_sextImm]

theorem teqi (rs : RegIdx) (imm : BitVec 16) : Statement (.teqi rs imm) := by
  simp [Statement, Instr.wf, Instr.ir, Decoded.wf, IrOp.wf, SystemOp.wf, isSext16_sextImm]

theorem tnei (rs : RegIdx) (imm : BitVec 16) : Statement (.tnei rs imm) := by
  simp [Statement, Instr.wf, Instr.ir, Decoded.wf, IrOp.wf, SystemOp.wf, isSext16_sextImm]

theorem mfc0 (rt : RegIdx) (rd : RegIdx) : Statement (.mfc0 rt rd) := rfl

theorem dmfc0 (rt : RegIdx) (rd : RegIdx) : Statement (.dmfc0 rt rd) := rfl

theorem mtc0 (rt : RegIdx) (rd : RegIdx) : Statement (.mtc0 rt rd) := rfl

theorem dmtc0 (rt : RegIdx) (rd : RegIdx) : Statement (.dmtc0 rt rd) := rfl

theorem tlbr : Statement .tlbr := rfl

theorem tlbwi : Statement .tlbwi := rfl

theorem tlbwr : Statement .tlbwr := rfl

theorem tlbp : Statement .tlbp := rfl

theorem eret : Statement .eret := rfl

theorem mfc1 (rt : RegIdx) (fs : RegIdx) : Statement (.mfc1 rt fs) := rfl

theorem dmfc1 (rt : RegIdx) (fs : RegIdx) : Statement (.dmfc1 rt fs) := rfl

theorem cfc1 (rt : RegIdx) (fs : RegIdx) : Statement (.cfc1 rt fs) := rfl

theorem mtc1 (rt : RegIdx) (fs : RegIdx) : Statement (.mtc1 rt fs) := rfl

theorem dmtc1 (rt : RegIdx) (fs : RegIdx) : Statement (.dmtc1 rt fs) := rfl

theorem ctc1 (rt : RegIdx) (fs : RegIdx) : Statement (.ctc1 rt fs) := rfl

theorem bc1f (imm : BitVec 16) : Statement (.bc1f imm) := by
  simp [Statement, Instr.wf, Instr.ir, Decoded.wf, IrOp.wf, CfOp.wf, CfOp.destinationOk, CfOp.likelyOk, CfOp.linkOk, branchOp, jumpOp, Cond.isAlways, Cond.linkable, branchOffset_scaled]

theorem bc1t (imm : BitVec 16) : Statement (.bc1t imm) := by
  simp [Statement, Instr.wf, Instr.ir, Decoded.wf, IrOp.wf, CfOp.wf, CfOp.destinationOk, CfOp.likelyOk, CfOp.linkOk, branchOp, jumpOp, Cond.isAlways, Cond.linkable, branchOffset_scaled]

theorem bc1fl (imm : BitVec 16) : Statement (.bc1fl imm) := by
  simp [Statement, Instr.wf, Instr.ir, Decoded.wf, IrOp.wf, CfOp.wf, CfOp.destinationOk, CfOp.likelyOk, CfOp.linkOk, branchOp, jumpOp, Cond.isAlways, Cond.linkable, branchOffset_scaled]

theorem bc1tl (imm : BitVec 16) : Statement (.bc1tl imm) := by
  simp [Statement, Instr.wf, Instr.ir, Decoded.wf, IrOp.wf, CfOp.wf, CfOp.destinationOk, CfOp.likelyOk, CfOp.linkOk, branchOp, jumpOp, Cond.isAlways, Cond.linkable, branchOffset_scaled]

theorem cop1S : Statement .cop1S := rfl

theorem cop1D : Statement .cop1D := rfl

theorem cop1W : Statement .cop1W := rfl

theorem cop1L : Statement .cop1L := rfl

end Sys2Proof.Laws.IrWellFormed
end

