-- ==== Sys2Proof/Laws/Pipeline.lean ====
section
/-! SUPPORT. Everything the block finder can answer, and everything a step can do. -/

namespace Sys2Proof.Machine

/-- The scan answers a block of the shape of R196 at consecutive addresses and changes the collaborator
only, or is fatal and changes the collaborator at most. -/
theorem scanBlock_cases (start : Word) (n : Nat) (a : Word) (s : State) :
    (∃ b p, scanBlock start n a s = .ok b { s with pi := p } ∧ bufferShape b ∧ consecutiveFrom s.cfg a b
      ∧ b.length ≤ n + 1) ∨
      (∃ f p, scanBlock start n a s = .fatal f { s with pi := p }) := by
  induction n generalizing a s with
  | zero => exact .inr ⟨_, s.pi, rfl⟩
  | succ n ih =>
    unfold scanBlock
    rcases fetch_cases a s with ⟨w, p, h⟩ | ⟨f, h⟩
    · rw [h]
      simp only []
      split
      · rename_i hct
        rcases fetch_cases (toPc s.cfg (a + 4#64)) { s with pi := p } with ⟨d, q, hd⟩ | ⟨f, hd⟩
        · rw [hd]
          exact .inl ⟨_, q, rfl, hct, ⟨rfl, rfl, trivial⟩, by simp⟩
        · rw [hd]
          exact .inr ⟨f, p, rfl⟩
      · rename_i hct
        rcases ih (toPc s.cfg (a + 4#64)) { s with pi := p } with ⟨b, q, hb, hs, hc, hl⟩ | ⟨f, q, hb⟩
        · rw [hb]
          refine .inl ⟨_, q, rfl, ?_, ⟨rfl, hc⟩, by simpa using hl⟩
          match b, hs with
          | e :: e' :: rest, hs => exact ⟨by simpa using hct, hs⟩
        · rw [hb]
          exact .inr ⟨f, q, rfl⟩
    · rw [h]
      exact .inr ⟨f, s.pi, rfl⟩

/-- One word after, and then `k` words after. -/
theorem wordAfter_next (cfg : Params) (a : Word) (k : Nat) :
    wordAfter cfg (toPc cfg (a + 4#64)) k = wordAfter cfg a (k + 1) := by
  unfold wordAfter
  rw [if_neg (Nat.succ_ne_zero k)]
  split
  · rename_i h
    subst h
    rfl
  · rw [toPc_toPc_add, BitVec.add_assoc, show 4#64 = BitVec.ofNat 64 4 from rfl, ← BitVec.ofNat_add,
      Nat.mul_succ, Nat.add_comm]

/-- The entry at index `k` stands `k` words past the start. -/
theorem consecutiveFrom_addr {cfg : Params} {a : Word} {b : List BlockEntry} (h : consecutiveFrom cfg a b)
    {k : Nat} {e : BlockEntry} (hk : b[k]? = some e) : e.addr = wordAfter cfg a k := by
  induction b generalizing a k with
  | nil => simp at hk
  | cons x xs ih =>
    cases k with
    | zero =>
      simp only [List.getElem?_cons_zero, Option.some.injEq] at hk
      subst hk
      exact h.1
    | succ k => rw [ih h.2 (by simpa using hk), wordAfter_next]

/-- The step that forms a block fills the buffer, or halts; nothing else but the collaborator changes. -/
theorem formBlock_cases (s : State) :
    (∃ b p, formBlock s = { s with pi := p, block := b } ∧ bufferShape b ∧ consecutiveFrom s.cfg s.pc b
      ∧ b.length ≤ s.cfg.blockScanLimit + 1) ∨
      (∃ f p, formBlock s = { s with pi := p, phase := .halted f }) := by
  unfold formBlock findBlock
  rcases scanBlock_cases s.pc s.cfg.blockScanLimit s.pc s with ⟨b, p, h, hs⟩ | ⟨f, p, h⟩
  · rw [h]; exact .inl ⟨b, p, rfl, hs⟩
  · rw [h]; exact .inr ⟨f, p, rfl⟩

/-- Everything a step that answers a next state can be. -/
inductive StepCases (s t : State) : Prop where
  | boot1 : s.phase = .reset → t = bootStage1 s → StepCases s t
  | boot2 : s.phase = .boot1Done → t = bootStage2 s → StepCases s t
  | form : s.phase = .running → s.block = [] → t = formBlock s → StepCases s t
  | exec (e : BlockEntry) (rest : List BlockEntry) : s.phase = .running → s.block = e :: rest →
      StepOf (decodeIr e.word) s t → StepCases s t

theorem step_cases {s t : State} (h : step s = .next t) : StepCases s t := by
  unfold step at h
  split at h
  · rename_i hp; cases h; exact .boot1 hp rfl
  · rename_i hp; cases h; exact .boot2 hp rfl
  · rename_i hp
    split at h
    · rename_i hb; cases h; exact .form hp hb rfl
    · rename_i e rest hb
      rw [execWord_eq_execIr] at h
      obtain ⟨u, hu, hs⟩ := execIr_step (decodeIr e.word) s
      rw [hu] at h
      cases h
      exact .exec e rest hp hb hs
  · cases h
  · cases h

end Sys2Proof.Machine
end

