-- ==== Sys2Proof/Tests/Slice0.lean ====
section
/-! SUPPORT. The author's own tests: decoding of words written out from the spec's tables, the smoke test
of WellFormed, single steps whose expected results are the spec's own vectors, and a witness for the
hypotheses of every statement. -/

namespace Sys2Proof.Tests

open Sys2Proof.Machine

set_option Elab.async false
set_option maxRecDepth 4000

/-! ## Decoding -/

/-- Words written out field by field (41_load_store.md R224 to R239; 30_encoding.md R131 to R133). -/
theorem test_decode_load :
    decodeWord (0b100000#6 ++ 0b01001#5 ++ 0b01000#5 ++ 0x8001#16) = some (.lb 9 8 0x8001#16)
    ∧ decodeWord (0b100100#6 ++ 0b01001#5 ++ 0b01000#5 ++ 0x8001#16) = some (.lbu 9 8 0x8001#16)
    ∧ decodeWord (0b100001#6 ++ 0b01001#5 ++ 0b01000#5 ++ 0x8001#16) = some (.lh 9 8 0x8001#16)
    ∧ decodeWord (0b100101#6 ++ 0b01001#5 ++ 0b01000#5 ++ 0x8001#16) = some (.lhu 9 8 0x8001#16)
    ∧ decodeWord (0b100011#6 ++ 0b01001#5 ++ 0b01000#5 ++ 0x8001#16) = some (.lw 9 8 0x8001#16)
    ∧ decodeWord (0b100111#6 ++ 0b01001#5 ++ 0b01000#5 ++ 0x8001#16) = some (.lwu 9 8 0x8001#16)
    ∧ decodeWord (0b110111#6 ++ 0b01001#5 ++ 0b01000#5 ++ 0x8001#16) = some (.ld 9 8 0x8001#16)
    ∧ decodeWord (0b100010#6 ++ 0b01001#5 ++ 0b01000#5 ++ 0x8001#16) = some (.lwl 9 8 0x8001#16)
    ∧ decodeWord (0b100110#6 ++ 0b01001#5 ++ 0b01000#5 ++ 0x8001#16) = some (.lwr 9 8 0x8001#16)
    ∧ decodeWord (0b011010#6 ++ 0b01001#5 ++ 0b01000#5 ++ 0x8001#16) = some (.ldl 9 8 0x8001#16)
    ∧ decodeWord (0b011011#6 ++ 0b01001#5 ++ 0b01000#5 ++ 0x8001#16) = some (.ldr 9 8 0x8001#16)
    ∧ decodeWord (0b110000#6 ++ 0b01001#5 ++ 0b01000#5 ++ 0x8001#16) = some (.ll 9 8 0x8001#16)
    ∧ decodeWord (0b110100#6 ++ 0b01001#5 ++ 0b01000#5 ++ 0x8001#16) = some (.lld 9 8 0x8001#16)
    ∧ decodeWord (0b110001#6 ++ 0b01001#5 ++ 0b00010#5 ++ 0x8001#16) = some (.lwc1 9 2 0x8001#16)
    ∧ decodeWord (0b110101#6 ++ 0b01001#5 ++ 0b00010#5 ++ 0x8001#16) = some (.ldc1 9 2 0x8001#16)
    ∧ decodeWord (0b001111#6 ++ 0b00000#5 ++ 0b01000#5 ++ 0x8001#16) = some (.lui 8 0x8001#16) := by
  decide

/-- Words written out field by field (41_load_store.md R242 to R253; 30_encoding.md R131 to R133). -/
theorem test_decode_store :
    decodeWord (0b101000#6 ++ 0b01001#5 ++ 0b01000#5 ++ 0x8001#16) = some (.sb 9 8 0x8001#16)
    ∧ decodeWord (0b101001#6 ++ 0b01001#5 ++ 0b01000#5 ++ 0x8001#16) = some (.sh 9 8 0x8001#16)
    ∧ decodeWord (0b101011#6 ++ 0b01001#5 ++ 0b01000#5 ++ 0x8001#16) = some (.sw 9 8 0x8001#16)
    ∧ decodeWord (0b111111#6 ++ 0b01001#5 ++ 0b01000#5 ++ 0x8001#16) = some (.sd 9 8 0x8001#16)
    ∧ decodeWord (0b101010#6 ++ 0b01001#5 ++ 0b01000#5 ++ 0x8001#16) = some (.swl 9 8 0x8001#16)
    ∧ decodeWord (0b101110#6 ++ 0b01001#5 ++ 0b01000#5 ++ 0x8001#16) = some (.swr 9 8 0x8001#16)
    ∧ decodeWord (0b101100#6 ++ 0b01001#5 ++ 0b01000#5 ++ 0x8001#16) = some (.sdl 9 8 0x8001#16)
    ∧ decodeWord (0b101101#6 ++ 0b01001#5 ++ 0b01000#5 ++ 0x8001#16) = some (.sdr 9 8 0x8001#16)
    ∧ decodeWord (0b111000#6 ++ 0b01001#5 ++ 0b01000#5 ++ 0x8001#16) = some (.sc 9 8 0x8001#16)
    ∧ decodeWord (0b111100#6 ++ 0b01001#5 ++ 0b01000#5 ++ 0x8001#16) = some (.scd 9 8 0x8001#16)
    ∧ decodeWord (0b111001#6 ++ 0b01001#5 ++ 0b00010#5 ++ 0x8001#16) = some (.swc1 9 2 0x8001#16)
    ∧ decodeWord (0b111101#6 ++ 0b01001#5 ++ 0b00010#5 ++ 0x8001#16) = some (.sdc1 9 2 0x8001#16) := by
  decide

/-- Words written out field by field (42_alu_arith_logic.md R275 to R297; 30_encoding.md R131 to R133). -/
theorem test_decode_arithmetic_logic :
    decodeWord (0b001000#6 ++ 0b01001#5 ++ 0b01000#5 ++ 0x8001#16) = some (.addi 9 8 0x8001#16)
    ∧ decodeWord (0b001001#6 ++ 0b01001#5 ++ 0b01000#5 ++ 0x8001#16) = some (.addiu 9 8 0x8001#16)
    ∧ decodeWord (0b001010#6 ++ 0b01001#5 ++ 0b01000#5 ++ 0x8001#16) = some (.slti 9 8 0x8001#16)
    ∧ decodeWord (0b001011#6 ++ 0b01001#5 ++ 0b01000#5 ++ 0x8001#16) = some (.sltiu 9 8 0x8001#16)
    ∧ decodeWord (0b001100#6 ++ 0b01001#5 ++ 0b01000#5 ++ 0x8001#16) = some (.andi 9 8 0x8001#16)
    ∧ decodeWord (0b001101#6 ++ 0b01001#5 ++ 0b01000#5 ++ 0x8001#16) = some (.ori 9 8 0x8001#16)
    ∧ decodeWord (0b001110#6 ++ 0b01001#5 ++ 0b01000#5 ++ 0x8001#16) = some (.xori 9 8 0x8001#16)
    ∧ decodeWord (0b011000#6 ++ 0b01001#5 ++ 0b01000#5 ++ 0x8001#16) = some (.daddi 9 8 0x8001#16)
    ∧ decodeWord (0b011001#6 ++ 0b01001#5 ++ 0b01000#5 ++ 0x8001#16) = some (.daddiu 9 8 0x8001#16)
    ∧ decodeWord (0b000000#6 ++ 0b01001#5 ++ 0b01000#5 ++ 0b01010#5 ++ 0b00000#5 ++ 0b100000#6)
        = some (.add 9 8 10)
    ∧ decodeWord (0b000000#6 ++ 0b01001#5 ++ 0b01000#5 ++ 0b01010#5 ++ 0b00000#5 ++ 0b100001#6)
        = some (.addu 9 8 10)
    ∧ decodeWord (0b000000#6 ++ 0b01001#5 ++ 0b01000#5 ++ 0b01010#5 ++ 0b00000#5 ++ 0b100010#6)
        = some (.sub 9 8 10)
    ∧ decodeWord (0b000000#6 ++ 0b01001#5 ++ 0b01000#5 ++ 0b01010#5 ++ 0b00000#5 ++ 0b100011#6)
        = some (.subu 9 8 10)
    ∧ decodeWord (0b000000#6 ++ 0b01001#5 ++ 0b01000#5 ++ 0b01010#5 ++ 0b00000#5 ++ 0b100100#6)
        = some (.and 9 8 10)
    ∧ decodeWord (0b000000#6 ++ 0b01001#5 ++ 0b01000#5 ++ 0b01010#5 ++ 0b00000#5 ++ 0b100101#6)
        = some (.or 9 8 10)
    ∧ decodeWord (0b000000#6 ++ 0b01001#5 ++ 0b01000#5 ++ 0b01010#5 ++ 0b00000#5 ++ 0b100110#6)
        = some (.xor 9 8 10)
    ∧ decodeWord (0b000000#6 ++ 0b01001#5 ++ 0b01000#5 ++ 0b01010#5 ++ 0b00000#5 ++ 0b100111#6)
        = some (.nor 9 8 10)
    ∧ decodeWord (0b000000#6 ++ 0b01001#5 ++ 0b01000#5 ++ 0b01010#5 ++ 0b00000#5 ++ 0b101010#6)
        = some (.slt 9 8 10)
    ∧ decodeWord (0b000000#6 ++ 0b01001#5 ++ 0b01000#5 ++ 0b01010#5 ++ 0b00000#5 ++ 0b101011#6)
        = some (.sltu 9 8 10)
    ∧ decodeWord (0b000000#6 ++ 0b01001#5 ++ 0b01000#5 ++ 0b01010#5 ++ 0b00000#5 ++ 0b101100#6)
        = some (.dadd 9 8 10)
    ∧ decodeWord (0b000000#6 ++ 0b01001#5 ++ 0b01000#5 ++ 0b01010#5 ++ 0b00000#5 ++ 0b101101#6)
        = some (.daddu 9 8 10)
    ∧ decodeWord (0b000000#6 ++ 0b01001#5 ++ 0b01000#5 ++ 0b01010#5 ++ 0b00000#5 ++ 0b101110#6)
        = some (.dsub 9 8 10)
    ∧ decodeWord (0b000000#6 ++ 0b01001#5 ++ 0b01000#5 ++ 0b01010#5 ++ 0b00000#5 ++ 0b101111#6)
        = some (.dsubu 9 8 10) := by
  decide

/-- Words written out field by field (43_alu_shift_muldiv.md R335 to R349; 30_encoding.md R131 to R133). -/
theorem test_decode_shift :
    decodeWord (0b000000#6 ++ 0b00000#5 ++ 0b01000#5 ++ 0b01010#5 ++ 0b11011#5 ++ 0b000000#6)
        = some (.sll 8 10 0b11011#5)
    ∧ decodeWord (0b000000#6 ++ 0b00000#5 ++ 0b01000#5 ++ 0b01010#5 ++ 0b11011#5 ++ 0b000010#6)
        = some (.srl 8 10 0b11011#5)
    ∧ decodeWord (0b000000#6 ++ 0b00000#5 ++ 0b01000#5 ++ 0b01010#5 ++ 0b11011#5 ++ 0b000011#6)
        = some (.sra 8 10 0b11011#5)
    ∧ decodeWord (0b000000#6 ++ 0b00000#5 ++ 0b01000#5 ++ 0b01010#5 ++ 0b11011#5 ++ 0b111000#6)
        = some (.dsll 8 10 0b11011#5)
    ∧ decodeWord (0b000000#6 ++ 0b00000#5 ++ 0b01000#5 ++ 0b01010#5 ++ 0b11011#5 ++ 0b111010#6)
        = some (.dsrl 8 10 0b11011#5)
    ∧ decodeWord (0b000000#6 ++ 0b00000#5 ++ 0b01000#5 ++ 0b01010#5 ++ 0b11011#5 ++ 0b111011#6)
        = some (.dsra 8 10 0b11011#5)
    ∧ decodeWord (0b000000#6 ++ 0b00000#5 ++ 0b01000#5 ++ 0b01010#5 ++ 0b11011#5 ++ 0b111100#6)
        = some (.dsll32 8 10 0b11011#5)
    ∧ decodeWord (0b000000#6 ++ 0b00000#5 ++ 0b01000#5 ++ 0b01010#5 ++ 0b11011#5 ++ 0b111110#6)
        = some (.dsrl32 8 10 0b11011#5)
    ∧ decodeWord (0b000000#6 ++ 0b00000#5 ++ 0b01000#5 ++ 0b01010#5 ++ 0b11011#5 ++ 0b111111#6)
        = some (.dsra32 8 10 0b11011#5)
    ∧ decodeWord (0b000000#6 ++ 0b01001#5 ++ 0b01000#5 ++ 0b01010#5 ++ 0b00000#5 ++ 0b000100#6)
        = some (.sllv 9 8 10)
    ∧ decodeWord (0b000000#6 ++ 0b01001#5 ++ 0b01000#5 ++ 0b01010#5 ++ 0b00000#5 ++ 0b000110#6)
        = some (.srlv 9 8 10)
    ∧ decodeWord (0b000000#6 ++ 0b01001#5 ++ 0b01000#5 ++ 0b01010#5 ++ 0b00000#5 ++ 0b000111#6)
        = some (.srav 9 8 10)
    ∧ decodeWord (0b000000#6 ++ 0b01001#5 ++ 0b01000#5 ++ 0b01010#5 ++ 0b00000#5 ++ 0b010100#6)
        = some (.dsllv 9 8 10)
    ∧ decodeWord (0b000000#6 ++ 0b01001#5 ++ 0b01000#5 ++ 0b01010#5 ++ 0b00000#5 ++ 0b010110#6)
        = some (.dsrlv 9 8 10)
    ∧ decodeWord (0b000000#6 ++ 0b01001#5 ++ 0b01000#5 ++ 0b01010#5 ++ 0b00000#5 ++ 0b010111#6)
        = some (.dsrav 9 8 10) := by
  decide

/-- Words written out field by field (43_alu_shift_muldiv.md R350 to R361; 30_encoding.md R131 to R133). -/
theorem test_decode_multiply_divide_hilo :
    decodeWord (0b000000#6 ++ 0b01001#5 ++ 0b01000#5 ++ 0b00000#5 ++ 0b00000#5 ++ 0b011000#6)
        = some (.mult 9 8)
    ∧ decodeWord (0b000000#6 ++ 0b01001#5 ++ 0b01000#5 ++ 0b00000#5 ++ 0b00000#5 ++ 0b011001#6)
        = some (.multu 9 8)
    ∧ decodeWord (0b000000#6 ++ 0b01001#5 ++ 0b01000#5 ++ 0b00000#5 ++ 0b00000#5 ++ 0b011010#6)
        = some (.div 9 8)
    ∧ decodeWord (0b000000#6 ++ 0b01001#5 ++ 0b01000#5 ++ 0b00000#5 ++ 0b00000#5 ++ 0b011011#6)
        = some (.divu 9 8)
    ∧ decodeWord (0b000000#6 ++ 0b01001#5 ++ 0b01000#5 ++ 0b00000#5 ++ 0b00000#5 ++ 0b011100#6)
        = some (.dmult 9 8)
    ∧ decodeWord (0b000000#6 ++ 0b01001#5 ++ 0b01000#5 ++ 0b00000#5 ++ 0b00000#5 ++ 0b011101#6)
        = some (.dmultu 9 8)
    ∧ decodeWord (0b000000#6 ++ 0b01001#5 ++ 0b01000#5 ++ 0b00000#5 ++ 0b00000#5 ++ 0b011110#6)
        = some (.ddiv 9 8)
    ∧ decodeWord (0b000000#6 ++ 0b01001#5 ++ 0b01000#5 ++ 0b00000#5 ++ 0b00000#5 ++ 0b011111#6)
        = some (.ddivu 9 8)
    ∧ decodeWord (0b000000#6 ++ 0b00000#5 ++ 0b00000#5 ++ 0b01010#5 ++ 0b00000#5 ++ 0b010000#6)
        = some (.mfhi 10)
    ∧ decodeWord (0b000000#6 ++ 0b00000#5 ++ 0b00000#5 ++ 0b01010#5 ++ 0b00000#5 ++ 0b010010#6)
        = some (.mflo 10)
    ∧ decodeWord (0b000000#6 ++ 0b01001#5 ++ 0b00000#5 ++ 0b00000#5 ++ 0b00000#5 ++ 0b010001#6)
        = some (.mthi 9)
    ∧ decodeWord (0b000000#6 ++ 0b01001#5 ++ 0b00000#5 ++ 0b00000#5 ++ 0b00000#5 ++ 0b010011#6)
        = some (.mtlo 9) := by
  decide

/-- Words written out field by field (44_control_flow.md R376 to R401; 30_encoding.md R131 to R133). -/
theorem test_decode_control_flow :
    decodeWord (0b000100#6 ++ 0b01001#5 ++ 0b01000#5 ++ 0x8001#16) = some (.beq 9 8 0x8001#16)
    ∧ decodeWord (0b000101#6 ++ 0b01001#5 ++ 0b01000#5 ++ 0x8001#16) = some (.bne 9 8 0x8001#16)
    ∧ decodeWord (0b010100#6 ++ 0b01001#5 ++ 0b01000#5 ++ 0x8001#16) = some (.beql 9 8 0x8001#16)
    ∧ decodeWord (0b010101#6 ++ 0b01001#5 ++ 0b01000#5 ++ 0x8001#16) = some (.bnel 9 8 0x8001#16)
    ∧ decodeWord (0b000110#6 ++ 0b01001#5 ++ 0b00000#5 ++ 0x8001#16) = some (.blez 9 0x8001#16)
    ∧ decodeWord (0b000111#6 ++ 0b01001#5 ++ 0b00000#5 ++ 0x8001#16) = some (.bgtz 9 0x8001#16)
    ∧ decodeWord (0b010110#6 ++ 0b01001#5 ++ 0b00000#5 ++ 0x8001#16) = some (.blezl 9 0x8001#16)
    ∧ decodeWord (0b010111#6 ++ 0b01001#5 ++ 0b00000#5 ++ 0x8001#16) = some (.bgtzl 9 0x8001#16)
    ∧ decodeWord (0b000010#6 ++ 0x2ABCDEF#26) = some (.j 0x2ABCDEF#26)
    ∧ decodeWord (0b000011#6 ++ 0x2ABCDEF#26) = some (.jal 0x2ABCDEF#26)
    ∧ decodeWord (0b000000#6 ++ 0b01001#5 ++ 0b00000#5 ++ 0b00000#5 ++ 0b00000#5 ++ 0b001000#6) = some (.jr 9)
    ∧ decodeWord (0b000000#6 ++ 0b01001#5 ++ 0b00000#5 ++ 0b01010#5 ++ 0b00000#5 ++ 0b001001#6)
        = some (.jalr 9 10)
    ∧ decodeWord (0b000001#6 ++ 0b01001#5 ++ 0b00000#5 ++ 0x8001#16) = some (.bltz 9 0x8001#16)
    ∧ decodeWord (0b000001#6 ++ 0b01001#5 ++ 0b00001#5 ++ 0x8001#16) = some (.bgez 9 0x8001#16)
    ∧ decodeWord (0b000001#6 ++ 0b01001#5 ++ 0b00010#5 ++ 0x8001#16) = some (.bltzl 9 0x8001#16)
    ∧ decodeWord (0b000001#6 ++ 0b01001#5 ++ 0b00011#5 ++ 0x8001#16) = some (.bgezl 9 0x8001#16)
    ∧ decodeWord (0b000001#6 ++ 0b01001#5 ++ 0b10000#5 ++ 0x8001#16) = some (.bltzal 9 0x8001#16)
    ∧ decodeWord (0b000001#6 ++ 0b01001#5 ++ 0b10001#5 ++ 0x8001#16) = some (.bgezal 9 0x8001#16)
    ∧ decodeWord (0b000001#6 ++ 0b01001#5 ++ 0b10010#5 ++ 0x8001#16) = some (.bltzall 9 0x8001#16)
    ∧ decodeWord (0b000001#6 ++ 0b01001#5 ++ 0b10011#5 ++ 0x8001#16) = some (.bgezall 9 0x8001#16)
    ∧ decodeWord (0b010001#6 ++ 0b01000#5 ++ 0b00000#5 ++ 0x8001#16) = some (.bc1f 0x8001#16)
    ∧ decodeWord (0b010001#6 ++ 0b01000#5 ++ 0b00001#5 ++ 0x8001#16) = some (.bc1t 0x8001#16)
    ∧ decodeWord (0b010001#6 ++ 0b01000#5 ++ 0b00010#5 ++ 0x8001#16) = some (.bc1fl 0x8001#16)
    ∧ decodeWord (0b010001#6 ++ 0b01000#5 ++ 0b00011#5 ++ 0x8001#16) = some (.bc1tl 0x8001#16) := by
  decide

/-- Words written out field by field (45_move.md R412 to R423; 30_encoding.md R131 to R133). -/
theorem test_decode_move :
    decodeWord (0b010000#6 ++ 0b00000#5 ++ 0b01000#5 ++ 0b01010#5 ++ 0b00000#5 ++ 0b000000#6)
        = some (.mfc0 8 10)
    ∧ decodeWord (0b010000#6 ++ 0b00001#5 ++ 0b01000#5 ++ 0b01010#5 ++ 0b00000#5 ++ 0b000000#6)
        = some (.dmfc0 8 10)
    ∧ decodeWord (0b010000#6 ++ 0b00100#5 ++ 0b01000#5 ++ 0b01010#5 ++ 0b00000#5 ++ 0b000000#6)
        = some (.mtc0 8 10)
    ∧ decodeWord (0b010000#6 ++ 0b00101#5 ++ 0b01000#5 ++ 0b01010#5 ++ 0b00000#5 ++ 0b000000#6)
        = some (.dmtc0 8 10)
    ∧ decodeWord (0b010001#6 ++ 0b00000#5 ++ 0b01000#5 ++ 0b00100#5 ++ 0b00000#5 ++ 0b000000#6)
        = some (.mfc1 8 4)
    ∧ decodeWord (0b010001#6 ++ 0b00001#5 ++ 0b01000#5 ++ 0b00100#5 ++ 0b00000#5 ++ 0b000000#6)
        = some (.dmfc1 8 4)
    ∧ decodeWord (0b010001#6 ++ 0b00010#5 ++ 0b01000#5 ++ 0b00100#5 ++ 0b00000#5 ++ 0b000000#6)
        = some (.cfc1 8 4)
    ∧ decodeWord (0b010001#6 ++ 0b00100#5 ++ 0b01000#5 ++ 0b00100#5 ++ 0b00000#5 ++ 0b000000#6)
        = some (.mtc1 8 4)
    ∧ decodeWord (0b010001#6 ++ 0b00101#5 ++ 0b01000#5 ++ 0b00100#5 ++ 0b00000#5 ++ 0b000000#6)
        = some (.dmtc1 8 4)
    ∧ decodeWord (0b010001#6 ++ 0b00110#5 ++ 0b01000#5 ++ 0b00100#5 ++ 0b00000#5 ++ 0b000000#6)
        = some (.ctc1 8 4) := by
  decide

/-- Words written out field by field (46_system.md R430 to R457; 30_encoding.md R131 to R133). -/
theorem test_decode_system :
    decodeWord (0b101111#6 ++ 0b01001#5 ++ 0b10101#5 ++ 0x8001#16) = some (.cache 9 0b10101#5 0x8001#16)
    ∧ decodeWord (0b000000#6 ++ 0xABCDE#20 ++ 0b001100#6) = some (.syscall 0xABCDE#20)
    ∧ decodeWord (0b000000#6 ++ 0xABCDE#20 ++ 0b001101#6) = some (.brk 0xABCDE#20)
    ∧ decodeWord (0b000000#6 ++ 0b00000#5 ++ 0b00000#5 ++ 0b00000#5 ++ 0b00000#5 ++ 0b001111#6) = some .sync
    ∧ decodeWord (0b000000#6 ++ 0b01001#5 ++ 0b01000#5 ++ 0b00000#5 ++ 0b00000#5 ++ 0b110000#6)
        = some (.tge 9 8)
    ∧ decodeWord (0b000000#6 ++ 0b01001#5 ++ 0b01000#5 ++ 0b00000#5 ++ 0b00000#5 ++ 0b110001#6)
        = some (.tgeu 9 8)
    ∧ decodeWord (0b000000#6 ++ 0b01001#5 ++ 0b01000#5 ++ 0b00000#5 ++ 0b00000#5 ++ 0b110010#6)
        = some (.tlt 9 8)
    ∧ decodeWord (0b000000#6 ++ 0b01001#5 ++ 0b01000#5 ++ 0b00000#5 ++ 0b00000#5 ++ 0b110011#6)
        = some (.tltu 9 8)
    ∧ decodeWord (0b000000#6 ++ 0b01001#5 ++ 0b01000#5 ++ 0b00000#5 ++ 0b00000#5 ++ 0b110100#6)
        = some (.teq 9 8)
    ∧ decodeWord (0b000000#6 ++ 0b01001#5 ++ 0b01000#5 ++ 0b00000#5 ++ 0b00000#5 ++ 0b110110#6)
        = some (.tne 9 8)
    ∧ decodeWord (0b000001#6 ++ 0b01001#5 ++ 0b01000#5 ++ 0x8001#16) = some (.tgei 9 0x8001#16)
    ∧ decodeWord (0b000001#6 ++ 0b01001#5 ++ 0b01001#5 ++ 0x8001#16) = some (.tgeiu 9 0x8001#16)
    ∧ decodeWord (0b000001#6 ++ 0b01001#5 ++ 0b01010#5 ++ 0x8001#16) = some (.tlti 9 0x8001#16)
    ∧ decodeWord (0b000001#6 ++ 0b01001#5 ++ 0b01011#5 ++ 0x8001#16) = some (.tltiu 9 0x8001#16)
    ∧ decodeWord (0b000001#6 ++ 0b01001#5 ++ 0b01100#5 ++ 0x8001#16) = some (.teqi 9 0x8001#16)
    ∧ decodeWord (0b000001#6 ++ 0b01001#5 ++ 0b01110#5 ++ 0x8001#16) = some (.tnei 9 0x8001#16)
    ∧ decodeWord (0b010000#6 ++ 0b10000#5 ++ 0b00000#5 ++ 0b00000#5 ++ 0b00000#5 ++ 0b000001#6) = some .tlbr
    ∧ decodeWord (0b010000#6 ++ 0b10000#5 ++ 0b00000#5 ++ 0b00000#5 ++ 0b00000#5 ++ 0b000010#6) = some .tlbwi
    ∧ decodeWord (0b010000#6 ++ 0b10000#5 ++ 0b00000#5 ++ 0b00000#5 ++ 0b00000#5 ++ 0b000110#6) = some .tlbwr
    ∧ decodeWord (0b010000#6 ++ 0b10000#5 ++ 0b00000#5 ++ 0b00000#5 ++ 0b00000#5 ++ 0b001000#6) = some .tlbp
    ∧ decodeWord (0b010000#6 ++ 0b10000#5 ++ 0b00000#5 ++ 0b00000#5 ++ 0b00000#5 ++ 0b011000#6) = some .eret
    ∧ decodeWord (0b010001#6 ++ 0b10000#5 ++ 0b00000#5 ++ 0b00000#5 ++ 0b00000#5 ++ 0b000000#6) = some .cop1S
    ∧ decodeWord (0b010001#6 ++ 0b10001#5 ++ 0b00000#5 ++ 0b00000#5 ++ 0b00000#5 ++ 0b000000#6) = some .cop1D
    ∧ decodeWord (0b010001#6 ++ 0b10100#5 ++ 0b00000#5 ++ 0b00000#5 ++ 0b00000#5 ++ 0b000000#6) = some .cop1W
    ∧ decodeWord (0b010001#6 ++ 0b10101#5 ++ 0b00000#5 ++ 0b00000#5 ++ 0b00000#5 ++ 0b000000#6)
        = some .cop1L := by
  decide

/-- 95_test_vectors.md K1 to K21: the IR operation of a word. -/
theorem test_decode_ir :
    decodeIr 0x00000040#32 = .op (.alu ⟨.sll32, .g 0, some (.reg 0), .sa 1#6⟩)
    ∧ decodeIr 0x8D280004#32 = .op (.load ⟨⟨.b32, .s⟩, .g 8, .based 9 4#64, false, true⟩)
    ∧ decodeIr 0x3C088000#32 = .op (.load ⟨⟨.b32, .s⟩, .g 8, .immediate 0x80000000#32, false, true⟩)
    ∧ decodeIr 0xC1280000#32 = .op (.load ⟨⟨.b32, .s⟩, .g 8, .based 9 0#64, true, true⟩)
    ∧ decodeIr 0x010957E0#32 = .op (.alu ⟨.add32T, .g 10, some (.reg 8), .reg 9⟩)
    ∧ decodeIr 0x1509FFFD#32 = .op (.controlFlow ⟨.ne 8 9, .rel 0xFFFFFFFFFFFFFFF4#64, false, none⟩)
    ∧ decodeIr 0x0C400010#32 = .op (.controlFlow ⟨.always, .abs 0x0400010#26, false, some 31⟩)
    ∧ decodeIr 0x0100F809#32 = .op (.controlFlow ⟨.always, .inReg 8, false, some 31⟩)
    ∧ decodeIr 0x04110002#32 = .op (.controlFlow ⟨.gez 0, .rel 8#64, false, some 31⟩)
    ∧ decodeIr 0x45010003#32 = .op (.controlFlow ⟨.copTrue, .rel 12#64, false, none⟩)
    ∧ decodeIr 0x40886000#32 = .op (.move (.toCop 8 (.c0 12)))
    ∧ decodeIr 0x42000018#32 = .op (.system .eret) ∧ decodeIr 0x0000000C#32 = .op (.system (.syscall 0#20))
    ∧ decodeIr 0xBD200000#32 = .op (.system (.cache 0#5 9 0#64))
    ∧ decodeIr 0x46000000#32 = .unimplemented .cop1Arith
    ∧ decodeIr 0x44C00000#32 = .op (.move (.toCop 0 (.fc 0)))
    ∧ decodeIr 0xFFFFFFFF#32
      = .op (.store ⟨⟨.b64, .s⟩, .g 31, 31, 0xFFFFFFFFFFFFFFFF#64, false, true⟩) := by
  decide

/-- 95_test_vectors.md K22 to K33: reserved words. -/
theorem test_decode_reserved :
    decodeIr 0x00000001#32 = .op .malformed
    ∧ decodeIr 0x00000005#32 = .op .malformed
    ∧ decodeIr 0x0000000E#32 = .op .malformed
    ∧ decodeIr 0x00000028#32 = .op .malformed
    ∧ decodeIr 0x04040000#32 = .op .malformed
    ∧ decodeIr 0x70000000#32 = .op .malformed
    ∧ decodeIr 0x48000000#32 = .op .malformed
    ∧ decodeIr 0x4C000000#32 = .op .malformed
    ∧ decodeIr 0x41000000#32 = .op .malformed
    ∧ decodeIr 0x42000000#32 = .op .malformed
    ∧ decodeIr 0x44600000#32 = .op .malformed
    ∧ decodeIr 0xC8000000#32 = .op .malformed := by
  decide

/-! ## Single steps -/

/-- The address `A` of the vectors (96_test_vectors_instructions.md). -/
def A : Word := 0xFFFFFFFFA4000100#64

/-- The state the vectors start from: after boot stage one, running at `A`, with the reference
collaborator. -/
def base : State :=
  { bootStage1 State.reset with pc := A, phase := .running, pi := .reference 0#32 0#32 }

/-- `base` with the eight bytes the load vectors read. -/
def loadBase : State :=
  { base with
    mem := base.mem.setBytes 0x04000800 [0x80#8, 0x01#8, 0x02#8, 0x03#8, 0xF4#8, 0x05#8, 0x06#8, 0x07#8] }

/-- `s` about to execute `w` at `A`, one word before the end of its block. -/
def about (w : InstrWord) (s : State) : State :=
  { s with pc := A, block := [⟨A, w⟩, ⟨A + 4#64, 0#32⟩] }

/-- The step that executes `w` at `A` answers a next state with `P`. -/
def after (w : InstrWord) (s : State) (P : State → Bool) : Bool :=
  match step (about w s) with
  | .next t => P t
  | .fault _ => false
  | .refused _ => false

/-- 96_test_vectors_instructions.md V1, V23, V2, V4, V5, V6, V8, V14, V9. -/
theorem test_loads_1 :
    (after 0x81280000#32 (loadBase.writeX 9 0xFFFFFFFFA4000800#64)
        fun t => t.readX 8 = 0xFFFFFFFFFFFFFF80#64 ∧ t.pc = A + 4#64)
    ∧ (after 0x81280000#32 (loadBase.writeX 9 0xFFFFFFFFA4002800#64)
        fun t => t.readX 8 = 0xFFFFFFFFFFFFFF80#64 ∧ t.pc = A + 4#64)
    ∧ (after 0x91280000#32 (loadBase.writeX 9 0xFFFFFFFFA4000800#64)
        fun t => t.readX 8 = 0x80#64 ∧ t.pc = A + 4#64)
    ∧ (after 0x85280000#32 (loadBase.writeX 9 0xFFFFFFFFA4000800#64)
        fun t => t.readX 8 = 0xFFFFFFFFFFFF8001#64 ∧ t.pc = A + 4#64)
    ∧ (after 0x85280000#32 { (loadBase.writeX 9 0xFFFFFFFFA4000800#64) with cfg.loadByteOrder := .little }
        fun t => t.readX 8 = 0x180#64 ∧ t.pc = A + 4#64)
    ∧ (after 0x95280000#32 (loadBase.writeX 9 0xFFFFFFFFA4000800#64)
        fun t => t.readX 8 = 0x8001#64 ∧ t.pc = A + 4#64)
    ∧ (after 0x8D280004#32 { (loadBase.writeX 9 0xFFFFFFFFA4000800#64) with cfg.loadByteOrder := .little }
        fun t => t.readX 8 = 0x070605F4#64 ∧ t.pc = A + 4#64)
    ∧ (after 0x8D280002#32 (loadBase.writeX 9 0xFFFFFFFFA4000800#64)
        fun t => t.phase = .halted (.unsupportedFeature .unalignedAddress)
          ∧ t.pc = 0xFFFFFFFFA4000100#64)
    ∧ (after 0x9D280004#32 (loadBase.writeX 9 0xFFFFFFFFA4000800#64)
        fun t => t.readX 8 = 0xF4050607#64 ∧ t.pc = A + 4#64) := by
  decide

/-- 96_test_vectors_instructions.md V10, V11, V24, V25, V27, V28, V29, V30, V31. -/
theorem test_loads_2 :
    (after 0xDD280000#32 (loadBase.writeX 9 0xFFFFFFFFA4000800#64)
        fun t => t.readX 8 = 0x80010203F4050607#64 ∧ t.pc = A + 4#64)
    ∧ (after 0xDD280000#32 { (loadBase.writeX 9 0xFFFFFFFFA4000800#64) with cfg.loadByteOrder := .little }
        fun t => t.readX 8 = 0x070605F403020180#64 ∧ t.pc = A + 4#64)
    ∧ (after 0x3C088000#32 loadBase
        fun t => t.readX 8 = 0xFFFFFFFF80000000#64 ∧ t.pc = A + 4#64)
    ∧ (after 0x3C087FFF#32 loadBase fun t => t.readX 8 = 0x7FFF0000#64 ∧ t.pc = A + 4#64)
    ∧ (after 0x89280000#32 (loadBase.writeX 9 0xFFFFFFFFA4000800#64)
        fun t => t.phase = .halted (.unsupportedFeature .unalignedForm) ∧ t.pc = 0xFFFFFFFFA4000100#64)
    ∧ (after 0x6D280000#32 (loadBase.writeX 9 0xFFFFFFFFA4000800#64)
        fun t => t.phase = .halted (.unsupportedFeature .unalignedForm) ∧ t.pc = 0xFFFFFFFFA4000100#64)
    ∧ (after 0xC1280000#32 (loadBase.writeX 9 0xFFFFFFFFA4000800#64)
        fun t => t.phase = .halted (.unsupportedFeature .loadLinked) ∧ t.pc = 0xFFFFFFFFA4000100#64)
    ∧ (after 0xD1280000#32 (loadBase.writeX 9 0xFFFFFFFFA4000800#64)
        fun t => t.phase = .halted (.unsupportedFeature .loadLinked) ∧ t.pc = 0xFFFFFFFFA4000100#64)
    ∧ (after 0xC5220004#32 ((loadBase.writeX 9 0xFFFFFFFFA4000800#64).writeF 2 0x1111222233334444#64)
        fun t => t.readF 2 = 0x11112222F4050607#64 ∧ t.pc = A + 4#64) := by
  decide

/-- 96_test_vectors_instructions.md, and where a rule is named the rule: V33, V32, R233, R234. -/
theorem test_loads_3 :
    (after 0xC5220004#32 (((loadBase.writeX 9 0xFFFFFFFFA4000800#64).setC0 12 0x14000000#64).setC0 12 0x14000000#64)
        fun t => t.readC0 12 = 0x14000002#64
          ∧ t.readC0 13 = 0x1000002C#64
          ∧ t.readC0 14 = 0xFFFFFFFFA4000100#64
          ∧ t.pc = 0xFFFFFFFF80000180#64)
    ∧ (after 0xD5220000#32 ((loadBase.writeX 9 0xFFFFFFFFA4000800#64).writeF 2 0x1111222233334444#64)
        fun t => t.readF 2 = 0x80010203F4050607#64 ∧ t.pc = A + 4#64)
    ∧ (after 0x99280000#32 base fun t => t.phase = .halted (.unsupportedFeature .unalignedForm))
    ∧ (after 0x69280000#32 base fun t => t.phase = .halted (.unsupportedFeature .unalignedForm)) := by
  decide

/-- 96_test_vectors_instructions.md V34, V35, V36, V39, V37, V43, V45, V46, V47. -/
theorem test_stores_1 :
    (after 0xA1280000#32 ((base.writeX 8 0x1122334455667788#64).writeX 9 0xFFFFFFFFA4000800#64)
        fun t => (List.range 1).map (fun i => t.dmem (0x800 + i)) = [0x88#8] ∧ t.pc = A + 4#64)
    ∧ (after 0xA5280002#32 ((base.writeX 8 0x1122334455667788#64).writeX 9 0xFFFFFFFFA4000800#64)
        fun t => (List.range 2).map (fun i => t.dmem (0x802 + i)) = [0x88#8, 0x77#8] ∧ t.pc = A + 4#64)
    ∧ (after 0xAD280004#32 ((base.writeX 8 0x1122334455667788#64).writeX 9 0xFFFFFFFFA4000800#64)
        fun t => (List.range 4).map (fun i => t.dmem (0x804 + i)) = [0x88#8, 0x77#8, 0x66#8, 0x55#8]
          ∧ t.pc = A + 4#64)
    ∧ (after 0xAD280000#32 ((base.writeX 8 0x1122334455667788#64).writeX 9 0xFFFFFFFFA4003000#64)
        fun t => (List.range 4).map (fun i => t.imem (0x0 + i)) = [0x88#8, 0x77#8, 0x66#8, 0x55#8]
          ∧ t.pc = A + 4#64)
    ∧ (after 0xFD280000#32 ((base.writeX 8 0x1122334455667788#64).writeX 9 0xFFFFFFFFA4000800#64)
        fun t => (List.range 8).map (fun i => t.dmem (0x800 + i)) = [0x88#8, 0x77#8, 0x66#8, 0x55#8, 0x44#8, 0x33#8, 0x22#8, 0x11#8]
          ∧ t.pc = A + 4#64)
    ∧ (after 0xFD280004#32 ((base.writeX 8 0x1122334455667788#64).writeX 9 0xFFFFFFFFA4000800#64)
        fun t => t.phase = .halted (.unsupportedFeature .unalignedAddress)
          ∧ t.pc = 0xFFFFFFFFA4000100#64)
    ∧ (after 0xA9280000#32 ((base.writeX 8 0x1122334455667788#64).writeX 9 0xFFFFFFFFA4000800#64)
        fun t => t.phase = .halted (.unsupportedFeature .unalignedForm) ∧ t.pc = 0xFFFFFFFFA4000100#64)
    ∧ (after 0xE1280000#32 ((base.writeX 8 0x1122334455667788#64).writeX 9 0xFFFFFFFFA4000800#64)
        fun t => t.phase = .halted (.unsupportedFeature .storeConditional)
          ∧ t.pc = 0xFFFFFFFFA4000100#64)
    ∧ (after 0xF1280000#32 ((base.writeX 8 0x1122334455667788#64).writeX 9 0xFFFFFFFFA4000800#64)
        fun t => t.phase = .halted (.unsupportedFeature .storeConditional)
          ∧ t.pc = 0xFFFFFFFFA4000100#64) := by
  decide

/-- 96_test_vectors_instructions.md, and where a rule is named the rule: V48, V50, V49, R249, R250, R251. -/
theorem test_stores_2 :
    (after 0xE5220000#32 ((base.writeF 2 0xAABBCCDD01020304#64).writeX 9 0xFFFFFFFFA4000800#64)
        fun t => (List.range 4).map (fun i => t.dmem (0x800 + i)) = [0x04#8, 0x03#8, 0x02#8, 0x01#8]
          ∧ t.pc = A + 4#64)
    ∧ (after 0xE5220000#32 ((((base.writeF 2 0xAABBCCDD01020304#64).writeX 9 0xFFFFFFFFA4000800#64).setC0 12 0x14000000#64).setC0 12 0x14000000#64)
        fun t => t.readC0 12 = 0x14000002#64
          ∧ t.readC0 13 = 0x1000002C#64
          ∧ t.readC0 14 = 0xFFFFFFFFA4000100#64
          ∧ t.pc = 0xFFFFFFFF80000180#64)
    ∧ (after 0xF5220000#32 ((base.writeF 2 0xAABBCCDD01020304#64).writeX 9 0xFFFFFFFFA4000800#64)
        fun t => (List.range 8).map (fun i => t.dmem (0x800 + i)) = [0x04#8, 0x03#8, 0x02#8, 0x01#8, 0xDD#8, 0xCC#8, 0xBB#8, 0xAA#8]
          ∧ t.pc = A + 4#64)
    ∧ (after 0xB9280000#32 base fun t => t.phase = .halted (.unsupportedFeature .unalignedForm))
    ∧ (after 0xB1280000#32 base fun t => t.phase = .halted (.unsupportedFeature .unalignedForm))
    ∧ (after 0xB5280000#32 base fun t => t.phase = .halted (.unsupportedFeature .unalignedForm)) := by
  decide

/-- 96_test_vectors_instructions.md V57, V58, V59, V60, V67, V68, V76, V77, V78. -/
theorem test_immediates_1 :
    (after 0x2128FFFF#32 (base.writeX 9 0x0#64)
        fun t => t.readX 8 = 0xFFFFFFFFFFFFFFFF#64 ∧ t.pc = A + 4#64)
    ∧ (after 0x21280001#32 (base.writeX 9 0x7FFFFFFF#64)
        fun t => t.readC0 12 = 0x34000002#64
          ∧ t.readC0 13 = 0x00000030#64
          ∧ t.readC0 14 = 0xFFFFFFFFA4000100#64
          ∧ t.pc = 0xFFFFFFFF80000180#64)
    ∧ (after 0x25280001#32 (base.writeX 9 0x7FFFFFFF#64)
        fun t => t.readX 8 = 0xFFFFFFFF80000000#64 ∧ t.pc = A + 4#64)
    ∧ (after 0x25288000#32 (base.writeX 9 0x0#64)
        fun t => t.readX 8 = 0xFFFFFFFFFFFF8000#64 ∧ t.pc = A + 4#64)
    ∧ (after 0x6128FFFF#32 (base.writeX 9 0x8000000000000000#64)
        fun t => t.readC0 12 = 0x34000002#64
          ∧ t.readC0 13 = 0x00000030#64
          ∧ t.readC0 14 = 0xFFFFFFFFA4000100#64
          ∧ t.pc = 0xFFFFFFFF80000180#64)
    ∧ (after 0x6528FFFF#32 (base.writeX 9 0x8000000000000000#64)
        fun t => t.readX 8 = 0x7FFFFFFFFFFFFFFF#64 ∧ t.pc = A + 4#64)
    ∧ (after 0x3128FFFF#32 (base.writeX 9 0xFFFFFFFFFFFFFFFF#64)
        fun t => t.readX 8 = 0xFFFF#64 ∧ t.pc = A + 4#64)
    ∧ (after 0x35288000#32 (base.writeX 9 0xFFFFFFFFA4000000#64)
        fun t => t.readX 8 = 0xFFFFFFFFA4008000#64 ∧ t.pc = A + 4#64)
    ∧ (after 0x3928FFFF#32 (base.writeX 9 0xFF#64)
        fun t => t.readX 8 = 0xFF00#64 ∧ t.pc = A + 4#64) := by
  decide

/-- 96_test_vectors_instructions.md V83, V84, V85. -/
theorem test_immediates_2 :
    (after 0x2928FFFF#32 (base.writeX 9 0xFFFFFFFFFFFFFFFE#64)
        fun t => t.readX 8 = 0x1#64 ∧ t.pc = A + 4#64)
    ∧ (after 0x2D28FFFF#32 (base.writeX 9 0x5#64)
        fun t => t.readX 8 = 0x1#64 ∧ t.pc = A + 4#64)
    ∧ (after 0x2D280001#32 (base.writeX 9 0x0#64)
        fun t => t.readX 8 = 0x1#64 ∧ t.pc = A + 4#64) := by
  decide

/-- 96_test_vectors_instructions.md V51, V52, V56, V61, V62, V63, V64, V65, V66. -/
theorem test_arithmetic_1 :
    (after 0x01095020#32 ((base.writeX 8 0x5#64).writeX 9 0xFFFFFFFFFFFFFFFD#64)
        fun t => t.readX 10 = 0x2#64 ∧ t.pc = A + 4#64)
    ∧ (after 0x01095020#32 ((base.writeX 8 0x7FFFFFFF#64).writeX 9 0x1#64)
        fun t => t.readC0 12 = 0x34000002#64
          ∧ t.readC0 13 = 0x00000030#64
          ∧ t.readC0 14 = 0xFFFFFFFFA4000100#64
          ∧ t.pc = 0xFFFFFFFF80000180#64)
    ∧ (after 0x01095021#32 ((base.writeX 8 0x7FFFFFFF#64).writeX 9 0x1#64)
        fun t => t.readX 10 = 0xFFFFFFFF80000000#64 ∧ t.pc = A + 4#64)
    ∧ (after 0x01095022#32 ((base.writeX 8 0xFFFFFFFF80000000#64).writeX 9 0x1#64)
        fun t => t.readC0 12 = 0x34000002#64
          ∧ t.readC0 13 = 0x00000030#64
          ∧ t.readC0 14 = 0xFFFFFFFFA4000100#64
          ∧ t.pc = 0xFFFFFFFF80000180#64)
    ∧ (after 0x01095022#32 ((base.writeX 8 0x3#64).writeX 9 0x5#64)
        fun t => t.readX 10 = 0xFFFFFFFFFFFFFFFE#64 ∧ t.pc = A + 4#64)
    ∧ (after 0x01095023#32 ((base.writeX 8 0xFFFFFFFF80000000#64).writeX 9 0x1#64)
        fun t => t.readX 10 = 0x7FFFFFFF#64 ∧ t.pc = A + 4#64)
    ∧ (after 0x0109502C#32 ((base.writeX 8 0x7FFFFFFFFFFFFFFF#64).writeX 9 0x1#64)
        fun t => t.readC0 12 = 0x34000002#64
          ∧ t.readC0 13 = 0x00000030#64
          ∧ t.readC0 14 = 0xFFFFFFFFA4000100#64
          ∧ t.pc = 0xFFFFFFFF80000180#64)
    ∧ (after 0x0109502C#32 ((base.writeX 8 0x7FFFFFFF#64).writeX 9 0x1#64)
        fun t => t.readX 10 = 0x80000000#64 ∧ t.pc = A + 4#64)
    ∧ (after 0x0109502D#32 ((base.writeX 8 0x7FFFFFFFFFFFFFFF#64).writeX 9 0x1#64)
        fun t => t.readX 10 = 0x8000000000000000#64 ∧ t.pc = A + 4#64) := by
  decide

/-- 96_test_vectors_instructions.md V69, V70. -/
theorem test_arithmetic_2 :
    (after 0x0109502E#32 ((base.writeX 8 0x8000000000000000#64).writeX 9 0x1#64)
        fun t => t.readC0 12 = 0x34000002#64
          ∧ t.readC0 13 = 0x00000030#64
          ∧ t.readC0 14 = 0xFFFFFFFFA4000100#64
          ∧ t.pc = 0xFFFFFFFF80000180#64)
    ∧ (after 0x0109502F#32 ((base.writeX 8 0x0#64).writeX 9 0x1#64)
        fun t => t.readX 10 = 0xFFFFFFFFFFFFFFFF#64 ∧ t.pc = A + 4#64) := by
  decide

/-- 96_test_vectors_instructions.md V71, V72, V73, V74, V75, V79, V81, V80. -/
theorem test_logic_1 :
    (after 0x01095024#32 ((base.writeX 8 0xFF00FF00FF00FF00#64).writeX 9 0x0FF00FF00FF00FF0#64)
        fun t => t.readX 10 = 0x0F000F000F000F00#64 ∧ t.pc = A + 4#64)
    ∧ (after 0x01095025#32 ((base.writeX 8 0xFF00FF00FF00FF00#64).writeX 9 0x0FF00FF00FF00FF0#64)
        fun t => t.readX 10 = 0xFFF0FFF0FFF0FFF0#64 ∧ t.pc = A + 4#64)
    ∧ (after 0x01095026#32 ((base.writeX 8 0xFF00FF00FF00FF00#64).writeX 9 0x0FF00FF00FF00FF0#64)
        fun t => t.readX 10 = 0xF0F0F0F0F0F0F0F0#64 ∧ t.pc = A + 4#64)
    ∧ (after 0x01095027#32 ((base.writeX 8 0xFF00FF00FF00FF00#64).writeX 9 0x0FF00FF00FF00FF0#64)
        fun t => t.readX 10 = 0x000F000F000F000F#64 ∧ t.pc = A + 4#64)
    ∧ (after 0x00005027#32 base
        fun t => t.readX 10 = 0xFFFFFFFFFFFFFFFF#64 ∧ t.pc = A + 4#64)
    ∧ (after 0x0109502A#32 ((base.writeX 8 0xFFFFFFFFFFFFFFFF#64).writeX 9 0x1#64)
        fun t => t.readX 10 = 0x1#64 ∧ t.pc = A + 4#64)
    ∧ (let s := ((base.writeX 8 0x80000000#64).writeX 9 0x0#64)
      after 0x0109502A#32 s
        fun t => t.pc = A + 4#64 ∧ t = { s with pc := A + 4#64, block := t.block })
    ∧ (let s := ((base.writeX 8 0xFFFFFFFFFFFFFFFF#64).writeX 9 0x1#64)
      after 0x0109502B#32 s
        fun t => t.pc = A + 4#64 ∧ t = { s with pc := A + 4#64, block := t.block }) := by
  decide

/-- 96_test_vectors_instructions.md V86, V87, V89, V90, V91, V92, V93, V94, V95. -/
theorem test_shifts_1 :
    (after 0x00095100#32 (base.writeX 9 0x08000001#64)
        fun t => t.readX 10 = 0xFFFFFFFF80000010#64 ∧ t.pc = A + 4#64)
    ∧ (after 0x000957C0#32 (base.writeX 9 0x3#64)
        fun t => t.readX 10 = 0xFFFFFFFF80000000#64 ∧ t.pc = A + 4#64)
    ∧ (after 0x00095102#32 (base.writeX 9 0xFFFFFFFF80000000#64)
        fun t => t.readX 10 = 0x08000000#64 ∧ t.pc = A + 4#64)
    ∧ (after 0x00095002#32 (base.writeX 9 0x80000000#64)
        fun t => t.readX 10 = 0xFFFFFFFF80000000#64 ∧ t.pc = A + 4#64)
    ∧ (after 0x00095103#32 (base.writeX 9 0xFFFFFFFF80000000#64)
        fun t => t.readX 10 = 0xFFFFFFFFF8000000#64 ∧ t.pc = A + 4#64)
    ∧ (let s := (base.writeX 9 0x7FFFFFFF#64)
      after 0x000957C3#32 s
        fun t => t.pc = A + 4#64 ∧ t = { s with pc := A + 4#64, block := t.block })
    ∧ (after 0x01095004#32 ((base.writeX 8 0x21#64).writeX 9 0x1#64)
        fun t => t.readX 10 = 0x2#64 ∧ t.pc = A + 4#64)
    ∧ (after 0x01095006#32 ((base.writeX 8 0xFFFFFFFFFFFFFFE4#64).writeX 9 0xF0000000#64)
        fun t => t.readX 10 = 0x0F000000#64 ∧ t.pc = A + 4#64)
    ∧ (after 0x01095007#32 ((base.writeX 8 0x8#64).writeX 9 0xFFFFFFFF80000000#64)
        fun t => t.readX 10 = 0xFFFFFFFFFF800000#64 ∧ t.pc = A + 4#64) := by
  decide

/-- 96_test_vectors_instructions.md V96, V97, V98, V99, V100, V101, V102, V103, V104. -/
theorem test_shifts_2 :
    (after 0x00095138#32 (base.writeX 9 0xF000000000000001#64)
        fun t => t.readX 10 = 0x10#64 ∧ t.pc = A + 4#64)
    ∧ (after 0x0009513A#32 (base.writeX 9 0xF000000000000001#64)
        fun t => t.readX 10 = 0x0F00000000000000#64 ∧ t.pc = A + 4#64)
    ∧ (after 0x0009513B#32 (base.writeX 9 0xF000000000000001#64)
        fun t => t.readX 10 = 0xFF00000000000000#64 ∧ t.pc = A + 4#64)
    ∧ (after 0x0009503C#32 (base.writeX 9 0xA4000000#64)
        fun t => t.readX 10 = 0xA400000000000000#64 ∧ t.pc = A + 4#64)
    ∧ (after 0x000957FE#32 (base.writeX 9 0x8000000000000000#64)
        fun t => t.readX 10 = 0x1#64 ∧ t.pc = A + 4#64)
    ∧ (after 0x0009503F#32 (base.writeX 9 0x8000000100000000#64)
        fun t => t.readX 10 = 0xFFFFFFFF80000001#64 ∧ t.pc = A + 4#64)
    ∧ (after 0x01095014#32 ((base.writeX 8 0x41#64).writeX 9 0x1#64)
        fun t => t.readX 10 = 0x2#64 ∧ t.pc = A + 4#64)
    ∧ (after 0x01095016#32 ((base.writeX 8 0x3F#64).writeX 9 0x8000000000000000#64)
        fun t => t.readX 10 = 0x1#64 ∧ t.pc = A + 4#64)
    ∧ (after 0x01095017#32 ((base.writeX 8 0x3F#64).writeX 9 0x8000000000000000#64)
        fun t => t.readX 10 = 0xFFFFFFFFFFFFFFFF#64 ∧ t.pc = A + 4#64) := by
  decide

/-- 96_test_vectors_instructions.md V105, V107, V108, V109, V110, V111, V115, V116, V117. -/
theorem test_multiply_divide_1 :
    (after 0x01090018#32 ((base.writeX 8 0xFFFFFFFFFFFFFFFF#64).writeX 9 0xFFFFFFFFFFFFFFFF#64)
        fun t => t.hi = 0x0#64 ∧ t.lo = 0x1#64 ∧ t.pc = A + 4#64)
    ∧ (after 0x01090018#32 ((base.writeX 8 0xFFFFFFFF80000000#64).writeX 9 0x2#64)
        fun t => t.hi = 0xFFFFFFFFFFFFFFFF#64 ∧ t.lo = 0x0#64 ∧ t.pc = A + 4#64)
    ∧ (after 0x01090019#32 ((base.writeX 8 0xFFFFFFFFFFFFFFFF#64).writeX 9 0xFFFFFFFFFFFFFFFF#64)
        fun t => t.hi = 0xFFFFFFFFFFFFFFFE#64 ∧ t.lo = 0x1#64 ∧ t.pc = A + 4#64)
    ∧ (after 0x0109001C#32 ((base.writeX 8 0xFFFFFFFFFFFFFFFF#64).writeX 9 0x2#64)
        fun t => t.hi = 0xFFFFFFFFFFFFFFFF#64 ∧ t.lo = 0xFFFFFFFFFFFFFFFE#64 ∧ t.pc = A + 4#64)
    ∧ (after 0x0109001D#32 ((base.writeX 8 0xFFFFFFFFFFFFFFFF#64).writeX 9 0x2#64)
        fun t => t.hi = 0x1#64 ∧ t.lo = 0xFFFFFFFFFFFFFFFE#64 ∧ t.pc = A + 4#64)
    ∧ (after 0x0109001A#32 ((base.writeX 8 0xFFFFFFFFFFFFFFF9#64).writeX 9 0x2#64)
        fun t => t.hi = 0xFFFFFFFFFFFFFFFF#64 ∧ t.lo = 0xFFFFFFFFFFFFFFFD#64 ∧ t.pc = A + 4#64)
    ∧ (after 0x0109001A#32 { ((base.writeX 8 0xFFFFFFFF80000000#64).writeX 9 0xFFFFFFFFFFFFFFFF#64) with hi := 0x5#64 }
        fun t => t.hi = 0x0#64 ∧ t.lo = 0xFFFFFFFF80000000#64 ∧ t.pc = A + 4#64)
    ∧ (after 0x0109001B#32 ((base.writeX 8 0xFFFFFFFFFFFFFFF9#64).writeX 9 0x2#64)
        fun t => t.hi = 0x1#64 ∧ t.lo = 0x7FFFFFFC#64 ∧ t.pc = A + 4#64)
    ∧ (after 0x0109001B#32 ((base.writeX 8 0x80000000#64).writeX 9 0x0#64)
        fun t => t.hi = 0xFFFFFFFF80000000#64 ∧ t.lo = 0xFFFFFFFFFFFFFFFF#64 ∧ t.pc = A + 4#64) := by
  decide

/-- 96_test_vectors_instructions.md V118, V119, V121, V122, V123, V124, V125, V126. -/
theorem test_multiply_divide_2 :
    (after 0x0109001E#32 ((base.writeX 8 0xFFFFFFFFFFFFFFF9#64).writeX 9 0x2#64)
        fun t => t.hi = 0xFFFFFFFFFFFFFFFF#64 ∧ t.lo = 0xFFFFFFFFFFFFFFFD#64 ∧ t.pc = A + 4#64)
    ∧ (after 0x0109001E#32 ((base.writeX 8 0xFFFFFFFFFFFFFFF9#64).writeX 9 0x0#64)
        fun t => t.hi = 0xFFFFFFFFFFFFFFF9#64 ∧ t.lo = 0x1#64 ∧ t.pc = A + 4#64)
    ∧ (after 0x0109001F#32 ((base.writeX 8 0xFFFFFFFFFFFFFFF9#64).writeX 9 0x2#64)
        fun t => t.hi = 0x1#64 ∧ t.lo = 0x7FFFFFFFFFFFFFFC#64 ∧ t.pc = A + 4#64)
    ∧ (after 0x0109001F#32 ((base.writeX 8 0x9#64).writeX 9 0x0#64)
        fun t => t.hi = 0x9#64 ∧ t.lo = 0xFFFFFFFFFFFFFFFF#64 ∧ t.pc = A + 4#64)
    ∧ (after 0x00005010#32 { { base with hi := 0x1111#64 } with lo := 0x2222#64 }
        fun t => t.readX 10 = 0x1111#64 ∧ t.pc = A + 4#64)
    ∧ (after 0x00005012#32 { { base with hi := 0x1111#64 } with lo := 0x2222#64 }
        fun t => t.readX 10 = 0x2222#64 ∧ t.pc = A + 4#64)
    ∧ (after 0x01000011#32 { (base.writeX 8 0xAAAABBBBCCCCDDDD#64) with lo := 0x2222#64 }
        fun t => t.hi = 0xAAAABBBBCCCCDDDD#64 ∧ t.lo = 0x2222#64 ∧ t.pc = A + 4#64)
    ∧ (after 0x01000013#32 { (base.writeX 8 0xAAAABBBBCCCCDDDD#64) with hi := 0x1111#64 }
        fun t => t.hi = 0x1111#64 ∧ t.lo = 0xAAAABBBBCCCCDDDD#64 ∧ t.pc = A + 4#64) := by
  decide

/-- 96_test_vectors_instructions.md V153, V154, V155, V157, V158. -/
theorem test_jumps_1 :
    (after 0x08400080#32 base
        fun t => (t.latch.map fun p => (p.taken, p.target, p.ctAddr)) = some (true, 0xFFFFFFFFA1000200#64, A)
          ∧ t.pc = A + 4#64)
    ∧ (after 0x0D000010#32 base fun t => t.readX 31 = 0xFFFFFFFFA4000108#64
          ∧ (t.latch.map fun p => (p.taken, p.target, p.ctAddr)) = some (true, 0xFFFFFFFFA4000040#64, A)
          ∧ t.pc = A + 4#64)
    ∧ (after 0x01000008#32 (base.writeX 8 0xFFFFFFFFA4000040#64)
        fun t => (t.latch.map fun p => (p.taken, p.target, p.ctAddr)) = some (true, 0xFFFFFFFFA4000040#64, A)
          ∧ t.pc = A + 4#64)
    ∧ (after 0x0100F809#32 (base.writeX 8 0xFFFFFFFFA4000040#64)
        fun t => t.readX 31 = 0xFFFFFFFFA4000108#64
          ∧ (t.latch.map fun p => (p.taken, p.target, p.ctAddr)) = some (true, 0xFFFFFFFFA4000040#64, A)
          ∧ t.pc = A + 4#64)
    ∧ (after 0x01004009#32 (base.writeX 8 0xFFFFFFFFA4000040#64)
        fun t => t.readX 8 = 0xFFFFFFFFA4000108#64
          ∧ (t.latch.map fun p => (p.taken, p.target, p.ctAddr)) = some (true, 0xFFFFFFFFA4000040#64, A)
          ∧ t.pc = A + 4#64) := by
  decide

/-- 96_test_vectors_instructions.md V141, V142, V143, V144, V145, V146, V147, V151, V152. -/
theorem test_likely_branches_1 :
    (after 0x51090004#32 ((base.writeX 8 0x7#64).writeX 9 0x8#64)
        fun t => t.latch = none ∧ t.pc = A + 8#64 ∧ t.block = [])
    ∧ (after 0x51090004#32 ((base.writeX 8 0x7#64).writeX 9 0x7#64)
        fun t => (t.latch.map fun p => (p.taken, p.target, p.ctAddr)) = some (true, 0xFFFFFFFFA4000118#64, A)
          ∧ t.pc = A + 4#64)
    ∧ (after 0x55090004#32 ((base.writeX 8 0x7#64).writeX 9 0x7#64)
        fun t => t.latch = none ∧ t.pc = A + 8#64 ∧ t.block = [])
    ∧ (after 0x59000004#32 (base.writeX 8 0x1#64)
        fun t => t.latch = none ∧ t.pc = A + 8#64 ∧ t.block = [])
    ∧ (after 0x5D000004#32 (base.writeX 8 0x1#64)
        fun t => (t.latch.map fun p => (p.taken, p.target, p.ctAddr)) = some (true, 0xFFFFFFFFA4000118#64, A)
          ∧ t.pc = A + 4#64)
    ∧ (after 0x05020004#32 (base.writeX 8 0x0#64)
        fun t => t.latch = none ∧ t.pc = A + 8#64 ∧ t.block = [])
    ∧ (after 0x05030004#32 (base.writeX 8 0x0#64)
        fun t => (t.latch.map fun p => (p.taken, p.target, p.ctAddr)) = some (true, 0xFFFFFFFFA4000118#64, A)
          ∧ t.pc = A + 4#64)
    ∧ (after 0x05120004#32 (base.writeX 8 0x0#64)
        fun t => t.readX 31 = 0xFFFFFFFFA4000108#64 ∧ t.latch = none ∧ t.pc = A + 8#64 ∧ t.block = [])
    ∧ (after 0x05130004#32 (base.writeX 8 0x0#64)
        fun t => t.readX 31 = 0xFFFFFFFFA4000108#64
          ∧ (t.latch.map fun p => (p.taken, p.target, p.ctAddr)) = some (true, 0xFFFFFFFFA4000118#64, A)
          ∧ t.pc = A + 4#64) := by
  decide

/-- 96_test_vectors_instructions.md V168, V169. -/
theorem test_likely_branches_2 :
    (after 0x45020004#32 { base with fcsr := 0x00800000#64 }
        fun t => t.latch = none ∧ t.pc = A + 8#64 ∧ t.block = [])
    ∧ (after 0x45030004#32 { base with fcsr := 0x00800000#64 }
        fun t => (t.latch.map fun p => (p.taken, p.target, p.ctAddr)) = some (true, 0xFFFFFFFFA4000118#64, A)
          ∧ t.pc = A + 4#64) := by
  decide

/-- 96_test_vectors_instructions.md V127, V129, V133, V134, V135, V136, V137, V138, V139. -/
theorem test_branches_1 :
    (after 0x11090004#32 ((base.writeX 8 0x7#64).writeX 9 0x7#64)
        fun t => (t.latch.map fun p => (p.taken, p.target, p.ctAddr)) = some (true, 0xFFFFFFFFA4000118#64, A)
          ∧ t.pc = A + 4#64)
    ∧ (after 0x11090004#32 ((base.writeX 8 0x7#64).writeX 9 0x8#64)
        fun t => (t.latch.map fun p => (p.taken, p.ctAddr)) = some (false, A) ∧ t.pc = A + 4#64)
    ∧ (after 0x15090004#32 ((base.writeX 8 0x7#64).writeX 9 0x8#64)
        fun t => (t.latch.map fun p => (p.taken, p.target, p.ctAddr)) = some (true, 0xFFFFFFFFA4000118#64, A)
          ∧ t.pc = A + 4#64)
    ∧ (after 0x15090004#32 ((base.writeX 8 0x0000000100000000#64).writeX 9 0x0#64)
        fun t => (t.latch.map fun p => (p.taken, p.target, p.ctAddr)) = some (true, 0xFFFFFFFFA4000118#64, A)
          ∧ t.pc = A + 4#64)
    ∧ (after 0x19000004#32 (base.writeX 8 0x0#64)
        fun t => (t.latch.map fun p => (p.taken, p.target, p.ctAddr)) = some (true, 0xFFFFFFFFA4000118#64, A)
          ∧ t.pc = A + 4#64)
    ∧ (after 0x19000004#32 (base.writeX 8 0x1#64)
        fun t => (t.latch.map fun p => (p.taken, p.ctAddr)) = some (false, A) ∧ t.pc = A + 4#64)
    ∧ (after 0x1D000004#32 (base.writeX 8 0x0#64)
        fun t => (t.latch.map fun p => (p.taken, p.ctAddr)) = some (false, A) ∧ t.pc = A + 4#64)
    ∧ (after 0x1D000004#32 (base.writeX 8 0x80000000#64)
        fun t => (t.latch.map fun p => (p.taken, p.target, p.ctAddr)) = some (true, 0xFFFFFFFFA4000118#64, A)
          ∧ t.pc = A + 4#64)
    ∧ (after 0x05000004#32 (base.writeX 8 0x8000000000000000#64)
        fun t => (t.latch.map fun p => (p.taken, p.target, p.ctAddr)) = some (true, 0xFFFFFFFFA4000118#64, A)
          ∧ t.pc = A + 4#64) := by
  decide

/-- 96_test_vectors_instructions.md V140, V148, V149, V150, V165, V166, V167. -/
theorem test_branches_2 :
    (after 0x05010004#32 (base.writeX 8 0x0#64)
        fun t => (t.latch.map fun p => (p.taken, p.target, p.ctAddr)) = some (true, 0xFFFFFFFFA4000118#64, A)
          ∧ t.pc = A + 4#64)
    ∧ (after 0x05100004#32 (base.writeX 8 0x0#64)
        fun t => t.readX 31 = 0xFFFFFFFFA4000108#64
          ∧ (t.latch.map fun p => (p.taken, p.ctAddr)) = some (false, A)
          ∧ t.pc = A + 4#64)
    ∧ (after 0x05110004#32 (base.writeX 8 0x0#64)
        fun t => t.readX 31 = 0xFFFFFFFFA4000108#64
          ∧ (t.latch.map fun p => (p.taken, p.target, p.ctAddr)) = some (true, 0xFFFFFFFFA4000118#64, A)
          ∧ t.pc = A + 4#64)
    ∧ (after 0x07F10004#32 (base.writeX 31 0xFFFFFFFFFFFFFFFF#64)
        fun t => t.readX 31 = 0xFFFFFFFFA4000108#64
          ∧ (t.latch.map fun p => (p.taken, p.ctAddr)) = some (false, A)
          ∧ t.pc = A + 4#64)
    ∧ (after 0x45010004#32 { base with fcsr := 0x00800000#64 }
        fun t => (t.latch.map fun p => (p.taken, p.target, p.ctAddr)) = some (true, 0xFFFFFFFFA4000118#64, A)
          ∧ t.pc = A + 4#64)
    ∧ (after 0x45010004#32 { base with fcsr := 0x00000000#64 }
        fun t => (t.latch.map fun p => (p.taken, p.ctAddr)) = some (false, A) ∧ t.pc = A + 4#64)
    ∧ (after 0x45000004#32 { base with fcsr := 0x00000000#64 }
        fun t => (t.latch.map fun p => (p.taken, p.target, p.ctAddr)) = some (true, 0xFFFFFFFFA4000118#64, A)
          ∧ t.pc = A + 4#64) := by
  decide

/-- 96_test_vectors_instructions.md V174, V176, V179, V183, V189, V190. -/
theorem test_cop0_moves_1 :
    (after 0x40087800#32 base fun t => t.readX 8 = 0xB22#64 ∧ t.pc = A + 4#64)
    ∧ (after 0x40088000#32 base fun t => t.readX 8 = 0x0006E463#64 ∧ t.pc = A + 4#64)
    ∧ (after 0x40886000#32 (base.writeX 8 0xFFFFFFFFFFFFFFFF#64)
        fun t => t.readC0 12 = 0xFF57FFFF#64 ∧ t.pc = A + 4#64)
    ∧ (after 0x40888000#32 (base.writeX 8 0xFFFFFFFFFFFFFFFF#64)
        fun t => t.readC0 16 = 0x0F06E46F#64 ∧ t.pc = A + 4#64)
    ∧ (after 0x40A87000#32 (base.writeX 8 0x123456789ABCDEF0#64)
        fun t => t.readC0 14 = 0x123456789ABCDEF0#64 ∧ t.pc = A + 4#64)
    ∧ (after 0x4028F000#32 (base.setC0 30 0xFFFFFFFFA4000400#64)
        fun t => t.readX 8 = 0xFFFFFFFFA4000400#64 ∧ t.pc = A + 4#64) := by
  decide

/-- 96_test_vectors_instructions.md V193, V197, V194, V195, V196, V198, V202, V200, V203. -/
theorem test_cop1_moves_1 :
    (after 0x44882000#32 (base.writeX 8 0x123456789ABCDEF0#64)
        fun t => t.readF 4 = 0x123456789ABCDEF0#64 ∧ t.pc = A + 4#64)
    ∧ (after 0x44882000#32 (((base.writeX 8 0x1#64).setC0 12 0x14000000#64).setC0 12 0x14000000#64)
        fun t => t.readC0 12 = 0x14000002#64
          ∧ t.readC0 13 = 0x1000002C#64
          ∧ t.readC0 14 = 0xFFFFFFFFA4000100#64
          ∧ t.pc = 0xFFFFFFFF80000180#64)
    ∧ (after 0x44082000#32 (base.writeF 4 0xC0490FDB#64)
        fun t => t.readX 8 = 0xC0490FDB#64 ∧ t.pc = A + 4#64)
    ∧ (after 0x44A82000#32 (base.writeX 8 0x400921FB54442D18#64)
        fun t => t.readF 4 = 0x400921FB54442D18#64 ∧ t.pc = A + 4#64)
    ∧ (after 0x44282000#32 (base.writeF 4 0x400921FB54442D18#64)
        fun t => t.readX 8 = 0x400921FB54442D18#64 ∧ t.pc = A + 4#64)
    ∧ (after 0x44480000#32 base fun t => t.readX 8 = 0xB00#64 ∧ t.pc = A + 4#64)
    ∧ (after 0x44482800#32 base
        fun t => t.phase = .halted (.unsupportedFeature .fcrIndex) ∧ t.pc = 0xFFFFFFFFA4000100#64)
    ∧ (after 0x44C8F800#32 (base.writeX 8 0xFFFFFFFFFFFFFFFF#64)
        fun t => t.fcsr = 0x0183FFFF#64 ∧ t.pc = A + 4#64)
    ∧ (after 0x44C8F000#32 base
        fun t => t.phase = .halted (.unsupportedFeature .fcrIndex) ∧ t.pc = 0xFFFFFFFFA4000100#64) := by
  decide

/-- 96_test_vectors_instructions.md V214, V215, V216, V217, V218, V219, V220, V221, V222. -/
theorem test_traps_1 :
    (after 0x01090034#32 ((base.writeX 8 0x5#64).writeX 9 0x5#64)
        fun t => t.readC0 12 = 0x34000002#64
          ∧ t.readC0 13 = 0x00000034#64
          ∧ t.readC0 14 = 0xFFFFFFFFA4000100#64
          ∧ t.pc = 0xFFFFFFFF80000180#64)
    ∧ (let s := ((base.writeX 8 0x5#64).writeX 9 0x6#64)
      after 0x01090034#32 s
        fun t => t.pc = A + 4#64 ∧ t = { s with pc := A + 4#64, block := t.block })
    ∧ (after 0x01090036#32 ((base.writeX 8 0x5#64).writeX 9 0x6#64)
        fun t => t.readC0 12 = 0x34000002#64
          ∧ t.readC0 13 = 0x00000034#64
          ∧ t.readC0 14 = 0xFFFFFFFFA4000100#64
          ∧ t.pc = 0xFFFFFFFF80000180#64)
    ∧ (let s := ((base.writeX 8 0xFFFFFFFFFFFFFFFF#64).writeX 9 0x0#64)
      after 0x01090030#32 s
        fun t => t.pc = A + 4#64 ∧ t = { s with pc := A + 4#64, block := t.block })
    ∧ (after 0x01090031#32 ((base.writeX 8 0xFFFFFFFFFFFFFFFF#64).writeX 9 0x0#64)
        fun t => t.readC0 12 = 0x34000002#64
          ∧ t.readC0 13 = 0x00000034#64
          ∧ t.readC0 14 = 0xFFFFFFFFA4000100#64
          ∧ t.pc = 0xFFFFFFFF80000180#64)
    ∧ (after 0x01090032#32 ((base.writeX 8 0xFFFFFFFFFFFFFFFF#64).writeX 9 0x0#64)
        fun t => t.readC0 12 = 0x34000002#64
          ∧ t.readC0 13 = 0x00000034#64
          ∧ t.readC0 14 = 0xFFFFFFFFA4000100#64
          ∧ t.pc = 0xFFFFFFFF80000180#64)
    ∧ (let s := ((base.writeX 8 0xFFFFFFFFFFFFFFFF#64).writeX 9 0x0#64)
      after 0x01090033#32 s
        fun t => t.pc = A + 4#64 ∧ t = { s with pc := A + 4#64, block := t.block })
    ∧ (after 0x0508FFFF#32 (base.writeX 8 0x0#64) fun t => t.readC0 12 = 0x34000002#64
          ∧ t.readC0 13 = 0x00000034#64
          ∧ t.readC0 14 = 0xFFFFFFFFA4000100#64
          ∧ t.pc = 0xFFFFFFFF80000180#64)
    ∧ (let s := (base.writeX 8 0x0#64)
      after 0x0509FFFF#32 s
        fun t => t.pc = A + 4#64 ∧ t = { s with pc := A + 4#64, block := t.block }) := by
  decide

/-- 96_test_vectors_instructions.md V223, V224, V225, V226. -/
theorem test_traps_2 :
    (after 0x050A0001#32 (base.writeX 8 0x0#64) fun t => t.readC0 12 = 0x34000002#64
          ∧ t.readC0 13 = 0x00000034#64
          ∧ t.readC0 14 = 0xFFFFFFFFA4000100#64
          ∧ t.pc = 0xFFFFFFFF80000180#64)
    ∧ (let s := (base.writeX 8 0x1#64)
      after 0x050B0001#32 s
        fun t => t.pc = A + 4#64 ∧ t = { s with pc := A + 4#64, block := t.block })
    ∧ (after 0x050CFFFF#32 (base.writeX 8 0xFFFFFFFFFFFFFFFF#64)
        fun t => t.readC0 12 = 0x34000002#64
          ∧ t.readC0 13 = 0x00000034#64
          ∧ t.readC0 14 = 0xFFFFFFFFA4000100#64
          ∧ t.pc = 0xFFFFFFFF80000180#64)
    ∧ (let s := (base.writeX 8 0xFFFFFFFFFFFFFFFF#64)
      after 0x050EFFFF#32 s
        fun t => t.pc = A + 4#64 ∧ t = { s with pc := A + 4#64, block := t.block }) := by
  decide

/-- 96_test_vectors_instructions.md V204, V227, V206, V207, V208, V209, V210, V211, V212. -/
theorem test_system_1 :
    (after 0x0000000C#32 base fun t => t.readC0 12 = 0x34000002#64
          ∧ t.readC0 13 = 0x00000020#64
          ∧ t.readC0 14 = 0xFFFFFFFFA4000100#64
          ∧ t.pc = 0xFFFFFFFF80000180#64)
    ∧ (after 0x0000000C#32 (((base.setC0 12 0x34000002#64).setC0 14 0x00001111#64).setC0 13 0x80000000#64)
        fun t => t.readC0 13 = 0x80000020#64 ∧ t.pc = 0xFFFFFFFF80000180#64)
    ∧ (after 0x0000000D#32 base fun t => t.readC0 12 = 0x34000002#64
          ∧ t.readC0 13 = 0x00000024#64
          ∧ t.readC0 14 = 0xFFFFFFFFA4000100#64
          ∧ t.pc = 0xFFFFFFFF80000180#64)
    ∧ (after 0x70000000#32 base fun t => t.readC0 12 = 0x34000002#64
          ∧ t.readC0 13 = 0x00000028#64
          ∧ t.readC0 14 = 0xFFFFFFFFA4000100#64
          ∧ t.pc = 0xFFFFFFFF80000180#64)
    ∧ (after 0x48000000#32 base fun t => t.readC0 12 = 0x34000002#64
          ∧ t.readC0 13 = 0x00000028#64
          ∧ t.readC0 14 = 0xFFFFFFFFA4000100#64
          ∧ t.pc = 0xFFFFFFFF80000180#64)
    ∧ (after 0x46000000#32 base
        fun t => t.phase = .halted (.unsupportedFeature (.unimplementedOpcode .cop1Arith))
          ∧ t.pc = 0xFFFFFFFFA4000100#64)
    ∧ (let s := base
      after 0x0000000F#32 s
        fun t => t.pc = A + 4#64 ∧ t = { s with pc := A + 4#64, block := t.block })
    ∧ (let s := (base.writeX 9 0x1234#64)
      after 0xBD200000#32 s
        fun t => t.pc = A + 4#64 ∧ t = { s with pc := A + 4#64, block := t.block })
    ∧ (after 0x42000002#32 base
        fun t => t.phase = .halted (.unsupportedFeature .tlb) ∧ t.pc = 0xFFFFFFFFA4000100#64) := by
  decide

/-- 96_test_vectors_instructions.md, and where a rule is named the rule: V213, V230, V231, R450, R452, R457, R457, R457. -/
theorem test_system_2 :
    (after 0x42000008#32 base
        fun t => t.phase = .halted (.unsupportedFeature .tlb) ∧ t.pc = 0xFFFFFFFFA4000100#64)
    ∧ (after 0x42000018#32 ((base.setC0 12 0x34000002#64).setC0 14 0xFFFFFFFFA4000200#64)
        fun t => t.readC0 12 = 0x34000000#64 ∧ t.pc = 0xFFFFFFFFA4000200#64)
    ∧ (after 0x42000018#32 (((base.setC0 12 0x34000006#64).setC0 14 0xFFFFFFFFA4000200#64).setC0 30 0xFFFFFFFFA4000300#64)
        fun t => t.readC0 12 = 0x34000002#64 ∧ t.pc = 0xFFFFFFFFA4000300#64)
    ∧ (after 0x42000001#32 base fun t => t.phase = .halted (.unsupportedFeature .tlb))
    ∧ (after 0x42000006#32 base fun t => t.phase = .halted (.unsupportedFeature .tlb))
    ∧ (after 0x46200000#32 base fun t => t.phase = .halted (.unsupportedFeature (.unimplementedOpcode .cop1Arith)))
    ∧ (after 0x46800000#32 base fun t => t.phase = .halted (.unsupportedFeature (.unimplementedOpcode .cop1Arith)))
    ∧ (after 0x46A00000#32 base fun t => t.phase = .halted (.unsupportedFeature (.unimplementedOpcode .cop1Arith))) := by
  decide

/-! ## WellFormed: each check refuses a term -/

/-- A load of `$8` from `$9`, the term the load checks are tried on. -/
def someLoad : LoadOp :=
  { width := ⟨.b32, .s⟩, dest := .g 8, source := .based 9 0x10#64, conditional := false, aligned := true }

/-- A store of `$8` at `$9`. -/
def someStore : StoreOp :=
  { width := ⟨.b32, .s⟩, source := .g 8, base := 9, offset := 0x10#64, conditional := false, aligned := true }

/-- `addu $10, $9, $8`. -/
def someAlu : AluOp := { kind := .add32, dest := .g 10, src1 := some (.reg 9), src2 := .reg 8 }

/-- `sll $10, $8, 4`. -/
def someShift : AluOp := { kind := .sll32, dest := .g 10, src1 := some (.reg 8), src2 := .sa 4#6 }

/-- `beq $9, $8, +4`. -/
def someBranch : CfOp :=
  { condition := .eq 9 8, destination := .rel 16#64, likely := false, link := none }

/-- The terms the checks are tried on are well formed. -/
theorem test_wf_accepts :
    someLoad.wf = true ∧ someStore.wf = true ∧ someAlu.wf = true ∧ someShift.wf = true
    ∧ someBranch.wf = true := by
  decide

/-- 30_encoding.md R142, R143; 41_load_store.md R223, R231 to R237. -/
theorem test_wf_load_refuses :
    ({ someLoad with width := ⟨.b64, .z⟩ } : LoadOp).wf = false
    ∧ ({ someLoad with width := ⟨.b8, .s⟩, dest := .f 2 } : LoadOp).wf = false
    ∧ ({ someLoad with conditional := true, aligned := false } : LoadOp).wf = false
    ∧ ({ someLoad with width := ⟨.b16, .s⟩, aligned := false } : LoadOp).wf = false
    ∧ ({ someLoad with dest := .f 2, conditional := true } : LoadOp).wf = false
    ∧ ({ someLoad with source := .based 9 0x8000#64 } : LoadOp).wf = false
    ∧ ({ someLoad with source := .immediate 0x12340001#32 } : LoadOp).wf = false
    ∧ ({ someLoad with source := .immediate 0x12340000#32, dest := .f 2 } : LoadOp).wf = false
    ∧ ({ someLoad with source := .immediate 0x12340000#32, width := ⟨.b32, .z⟩ } : LoadOp).wf = false
    ∧ ({ someLoad with source := .immediate 0x12340000#32, conditional := true } : LoadOp).wf = false
    ∧ ({ someLoad with source := .immediate 0x12340000#32, aligned := false } : LoadOp).wf = false := by
  decide

/-- 30_encoding.md R142, R143; 41_load_store.md R223, R248 to R253. -/
theorem test_wf_store_refuses :
    ({ someStore with width := ⟨.b32, .z⟩ } : StoreOp).wf = false
    ∧ ({ someStore with width := ⟨.b16, .s⟩, source := .f 2 } : StoreOp).wf = false
    ∧ ({ someStore with conditional := true, aligned := false } : StoreOp).wf = false
    ∧ ({ someStore with source := .f 2, conditional := true } : StoreOp).wf = false
    ∧ ({ someStore with width := ⟨.b8, .s⟩, aligned := false } : StoreOp).wf = false
    ∧ ({ someStore with offset := 0x8000#64 } : StoreOp).wf = false := by
  decide

/-- 30_encoding.md R144, R150; 43_alu_shift_muldiv.md R358 to R361 and section 4. -/
theorem test_wf_alu_refuses :
    ({ someAlu with src1 := none } : AluOp).wf = false
    ∧ ({ someAlu with src1 := some (.imm 1#64) } : AluOp).wf = false
    ∧ ({ someAlu with src2 := .sa 1#6 } : AluOp).wf = false
    ∧ ({ someAlu with src2 := .hi } : AluOp).wf = false
    ∧ ({ someAlu with src2 := .imm 0x12345#64 } : AluOp).wf = false
    ∧ ({ someAlu with dest := .lo } : AluOp).wf = false
    ∧ ({ someShift with src2 := .sa 32#6 } : AluOp).wf = false
    ∧ ({ someShift with src2 := .imm 4#64 } : AluOp).wf = false
    ∧ ({ kind := .copy, dest := .hi, src1 := some (.reg 8), src2 := .reg 9 } : AluOp).wf = false
    ∧ ({ kind := .copy, dest := .hi, src1 := none, src2 := .lo } : AluOp).wf = false
    ∧ ({ kind := .copy, dest := .g 8, src1 := none, src2 := .reg 9 } : AluOp).wf = false
    ∧ ({ kind := .mult32, src1 := .reg 8, src2 := .imm 1#64 } : MulDivOp).wf = false
    ∧ ({ kind := .mult32, src1 := .hi, src2 := .reg 8 } : MulDivOp).wf = false := by
  decide

/-- 30_encoding.md R146, R147, R150; 44_control_flow.md R375. -/
theorem test_wf_control_flow_and_system_refuse :
    ({ someBranch with destination := .rel 2#64 } : CfOp).wf = false
    ∧ ({ someBranch with destination := .rel 0x20000#64 } : CfOp).wf = false
    ∧ ({ someBranch with destination := .abs 1#26 } : CfOp).wf = false
    ∧ ({ someBranch with destination := .inReg 8 } : CfOp).wf = false
    ∧ ({ someBranch with condition := .always } : CfOp).wf = false
    ∧ ({ condition := .always, destination := .abs 1#26, likely := true, link := none } : CfOp).wf = false
    ∧ ({ condition := .always, destination := .abs 1#26, likely := false, link := some 30 } : CfOp).wf = false
    ∧ ({ someBranch with link := some 31 } : CfOp).wf = false
    ∧ ({ someBranch with condition := .ltz 9, link := some 30 } : CfOp).wf = false
    ∧ (SystemOp.cache 0#5 9 0x8000#64).wf = false
    ∧ (SystemOp.trap .ge 8 (.imm 0x8000#64)).wf = false
    ∧ (SystemOp.trap .ge 8 (.sa 1#6)).wf = false ∧ (SystemOp.trap .ge 8 .hi).wf = false := by
  decide

/-- 40_pipeline.md R196; 70_reset_and_hazards.md R521: no block without a control transfer and its delay
slot, none with a control transfer or `ERET` in the delay slot, none with an ill-formed operation. -/
theorem test_wf_block :
    blockWf Params.defaults [decodeIr 0x25080001#32, decodeIr 0x1109FFFE#32, decodeIr 0x00000000#32] = true
    ∧ blockWf Params.defaults [] = false ∧ blockWf Params.defaults [decodeIr 0x1109FFFE#32] = false
    ∧ blockWf Params.defaults [decodeIr 0x25080001#32, decodeIr 0x00000000#32] = false
    ∧ blockWf Params.defaults [decodeIr 0x1109FFFE#32, decodeIr 0x1109FFFE#32, decodeIr 0x00000000#32] = false
    ∧ blockWf Params.defaults [decodeIr 0x1109FFFE#32, decodeIr 0x08000000#32] = false
    ∧ blockWf Params.defaults [decodeIr 0x1109FFFE#32, decodeIr 0x42000018#32] = false
    ∧ blockWf Params.defaults [.op (.load { someLoad with width := ⟨.b64, .z⟩ }), decodeIr 0x1109FFFE#32,
        decodeIr 0x00000000#32] = false := by
  decide

/-- 40_pipeline.md R197: a block of more than 1025 words is refused. -/
theorem test_wf_block_bound :
    blockWf Params.defaults (List.replicate 1024 (decodeIr 0x00000000#32)
      ++ [decodeIr 0x1109FFFE#32, decodeIr 0x00000000#32]) = false := by
  decide +kernel

/-! ## Blocks, delay slots, the collaborator and boot -/

/-- The state whose step is the delay slot of a taken branch at `A` with the target `A + 16`, and whose
delay slot is `w`. -/
def inSlot (w : InstrWord) : State :=
  { base with pc := A + 4#64, block := [⟨A + 4#64, w⟩],
              latch := some { taken := true, target := A + 16#64, ctAddr := A } }

/-- What a step answers. -/
def next (s : State) (P : State → Bool) : Bool :=
  match step s with
  | .next t => P t
  | .fault _ => false
  | .refused _ => false

/-- 96_test_vectors_instructions.md V163, V171, V173: a branch, `syscall` and an overflowing `add` in a
delay slot; and a delay slot that is done goes to the target (V127). -/
theorem test_delay_slot :
    next (inSlot 0x10000004#32) (fun t => t.phase = .halted (.unsupportedFeature .delaySlotTransfer)
      ∧ t.pc = A + 4#64)
    ∧ next (inSlot 0x0000000C#32) (fun t => t.readC0 13 = 0x80000020#64 ∧ t.epc = A)
    ∧ next ((inSlot 0x01295020#32).writeX 9 0x40000000#64)
      (fun t => t.readC0 13 = 0x80000030#64 ∧ t.epc = A)
    ∧ next (inSlot 0x240C0001#32) (fun t => t.pc = A + 16#64 ∧ t.latch = none ∧ t.readX 12 = 1#64) := by
  decide

/-- 96_test_vectors_instructions.md V161, V162: the next block cannot be formed at a misaligned target, nor
in the cached window. -/
theorem test_form_block_fatal :
    next { base with pc := 0xFFFFFFFFA4000042#64 } (fun t => t.phase
      = .halted (.unsupportedFeature .unalignedAddress))
    ∧ next { base with pc := 0xFFFFFFFF80000400#64 } (fun t => t.phase
      = .halted (.unsupportedFeature .unmappedSegment)) := by
  decide

/-- `A` holds `addiu $8, $8, 1`, `jr $31` and the delay slot `nop`: a block of three words (40_pipeline.md
R195, R196). -/
def blockBase : State :=
  { base with
    mem := base.mem.setBytes 0x04000100
      [0x25#8, 0x08#8, 0x00#8, 0x01#8, 0x03#8, 0xE0#8, 0x00#8, 0x08#8, 0x00#8, 0x00#8, 0x00#8, 0x00#8] }

theorem test_form_block :
    next blockBase (fun t => t.block
      = [⟨A, 0x25080001#32⟩, ⟨A + 4#64, 0x03E00008#32⟩, ⟨A + 8#64, 0x00000000#32⟩] ∧ t.pc = A) := by
  decide

/-- 92_eei_decisions.md D11: a word stored to the cartridge-address register is read back, least significant
byte first, and the length register starts the copy of its value plus one bytes. -/
theorem test_reference_collaborator :
    (Peripheral.reference 0x1000#32 0x10000040#32).read 0x04600004 4
      = ([0x40#8, 0x00#8, 0x00#8, 0x10#8], .reference 0x1000#32 0x10000040#32)
    ∧ (Peripheral.reference 0x1000#32 0x10000040#32).write 0x0460000C [0xFF#8, 0x00#8, 0x00#8, 0x00#8]
      = (some { source := 0x10000040#32, destination := 0x1000#32, length := 0x100#32 },
        .reference 0x1000#32 0x10000040#32) := by
  decide

/-- `base` with `$9` at the start of the peripheral-interface window. -/
def piBase : State := base.writeX 9 0xFFFFFFFFA4600000#64

/-- 95_test_vectors.md Q1, Q2, Q4, Q5, Q6, Q7: one step each with the reference collaborator. -/
theorem test_reference_steps :
    after 0xAD280000#32 (piBase.writeX 8 0x12345678#64) (fun t => t.pi = .reference 0x00345678#32 0#32)
    ∧ after 0xAD280004#32 (piBase.writeX 8 0x10000040#64) (fun t => t.pi = .reference 0#32 0x10000040#32)
    ∧ after 0x8D2A0000#32 { piBase with pi := .reference 0x00345678#32 0#32 }
      (fun t => t.readX 10 = 0x78563400#64)
    ∧ after 0x8D2A0010#32 { piBase with pi := .reference 0x00345678#32 0#32 } (fun t => t.readX 10 = 0#64)
    ∧ after 0xAD28000C#32 { piBase with pi := .reference 0#32 0x10002000#32, cart := List.replicate 0x2000 1#8 }
      (fun t => t.phase = .halted (.memoryFault .dmaCartRange) ∧ t.pc = A)
    ∧ after 0xA1280000#32 (piBase.writeX 8 0x55#64) (fun t => t.pi = base.pi ∧ t.pc = A + 4#64) := by
  decide +kernel

/-- 70_reset_and_hazards.md R512: boot stage one. -/
theorem test_boot_stage_one :
    next State.reset (fun t => t.status = 0x34000000#64 ∧ t.readC0 16 = 0x0006E463#64
      ∧ t.readX 29 = 0xFFFFFFFFA4001FF0#64 ∧ t.phase = .boot1Done) := by
  decide

/-- Log 9: the word placed after reset is the instruction the next step runs. -/
theorem test_with_fetch_word :
    decodeTableWord 32 0x25080001 = some (.addiu 8 8 1#16)
    ∧ next (State.reset.withFetchWord 32 0x25080001) (fun t => t.readX 8 = 1#64
      ∧ t.pc = 0xFFFFFFFFA4000004#64)
    ∧ next (State.reset.withFetchWord 32 0x0000000C) (fun t => t.cause = 0x20#64) := by
  decide

/-! ## Witnesses: for every statement with hypotheses, a state and operands that meet them -/

theorem witness_IgnoredBits :
    (0x010957E0#32 : InstrWord) &&& usedBits (.add 8 9 10) = encode (.add 8 9 10)
    ∧ (0x010957E0#32 : InstrWord) ≠ encode (.add 8 9 10) := by
  decide

theorem witness_ReservedWords :
    decodeIr 0x70000000#32 = .op .malformed ∧ decodeIr 0x00000001#32 = .op .malformed
    ∧ decodeIr 0x07FF0000#32 = .op .malformed ∧ decodeIr 0x4200003F#32 = .op .malformed
    ∧ decodeIr 0x47E00000#32 = .op .malformed ∧ decodeIr 0x45040000#32 = .op .malformed := by
  decide

theorem witness_StepRunsHead :
    (about 0x25080001#32 base).phase = .running
    ∧ (about 0x25080001#32 base).block = ⟨A, 0x25080001#32⟩ :: [⟨A + 4#64, 0#32⟩]
    ∧ decodeWord 0x25080001#32 = some (.addiu 8 8 1#16) ∧ decodeWord 0x70000000#32 = none := by
  decide

/-- `blockBase` forms a block at `A`, a byte of memory, which starts with an instruction or, with `pc` moved
to the reserved word, with none. -/
theorem witness_FormThenRun :
    blockBase.phase = .running ∧ blockBase.block = []
    ∧ next blockBase (fun t => t.phase = .running) ∧ inMemory blockBase.cfg blockBase.pc 4 0x04000100
    ∧ decodeWord (blockBase.byteAt 0x04000100 0 ++ blockBase.byteAt 0x04000100 1
        ++ blockBase.byteAt 0x04000100 2 ++ blockBase.byteAt 0x04000100 3) = some (.addiu 8 8 1#16) := by
  refine ⟨rfl, rfl, by decide, ⟨by decide, by decide, .inr (by decide)⟩, by decide⟩

/-- The same with a reserved word at the program counter. -/
theorem witness_FormThenRun_reserved :
    next { blockBase with mem := blockBase.mem.set 0x04000100 0x70#8 } (fun t => t.phase = .running)
    ∧ decodeWord ((0x70#8 : Byte) ++ (0x08#8 : Byte) ++ (0x00#8 : Byte) ++ (0x01#8 : Byte)) = none := by
  decide

theorem witness_FormedBlock_answer :
    findBlock A blockBase
      = .ok [⟨A, 0x25080001#32⟩, ⟨A + 4#64, 0x03E00008#32⟩, ⟨A + 8#64, 0x00000000#32⟩] blockBase := by
  decide

theorem witness_FormedBlock_words :
    (∀ k ≤ 2, fetch (A + BitVec.ofNat 64 (4 * k)) blockBase
        = .ok (if k = 0 then 0x25080001#32 else if k = 1 then 0x03E00008#32 else 0#32) blockBase)
    ∧ isCT 0x25080001#32 = false ∧ isCT 0x03E00008#32 = true := by
  decide

/-- The first 4096 bytes of `base`'s RAM are 1024 straight-line words. -/
theorem witness_FormedBlock_unbounded :
    base.cfg.blockScanLimit = 1024 ∧
    ∀ k < 1024, fetch (0xFFFFFFFFA0000000#64 + BitVec.ofNat 64 (4 * k)) base = .ok 0#32 base
      ∧ isCT 0#32 = false := by
  refine ⟨rfl, ?_⟩
  intro k hk
  have hn : (0xFFFFFFFFA0000000#64 + BitVec.ofNat 64 (4 * k)).toNat = 0xFFFFFFFFA0000000 + 4 * k := by
    simp only [BitVec.toNat_add, BitVec.toNat_ofNat]
    omega
  have hb : ∀ j < 1024, physical base.cfg (0xFFFFFFFFA0000000#64 + BitVec.ofNat 64 (4 * j)) 4 = some (4 * j)
      ∧ dispatch base.cfg (4 * j) 4 = some .ram := by decide +kernel
  have hm : inMemory base.cfg (0xFFFFFFFFA0000000#64 + BitVec.ofNat 64 (4 * k)) 4 (4 * k) :=
    ⟨by rw [hn]; omega, (hb k hk).1, .inl (hb k hk).2⟩
  have hz : ∀ i, base.byteAt (4 * k) i = 0#8 := fun _ => rfl
  refine ⟨(fetch_memory hm).trans ?_, by decide⟩
  rw [hz, hz, hz, hz]
  rfl

theorem witness_FormationChangesNothing : base.phase = .running ∧ base.block = [] := by decide

/-- At the last word of the window, with the oracle. -/
def atWindowEnd : State := { base with pc := 0xFFFFFFFFA46FFFFC#64, pi := .oracle 0 }

/-- At the last word of the window the oracle is asked once, and the block cannot be formed. -/
theorem witness_FormationChangesNothing_window :
    ∃ t, step atWindowEnd = .next t ∧ t.pi ≠ atWindowEnd.pi := by
  have hscan : ∀ (n : Nat) (a : Word) (w : InstrWord) (f : Fatal) (s s' : State), fetch a s = .ok w s' →
      fetch (toPc s.cfg (a + 4#64)) s' = .fatal f s' → scanBlock a (n + 2) a s = .fatal f s' := by
    intro n a w f s s' h h'
    unfold scanBlock
    rw [h]
    cases hct : isCT w
    · simp only [hct]
      unfold scanBlock
      rw [h']
      rfl
    · simp only [hct]
      rw [h']
      rfl
  have h : findBlock atWindowEnd.pc atWindowEnd
      = .fatal (.memoryFault (.address 0x04700000)) { atWindowEnd with pi := .oracle 1 } :=
    hscan 1022 _ (fetchedWord ((Peripheral.oracle 0).read 0x046FFFFC 4).1) _ _ _ rfl rfl
  refine ⟨_, rfl, ?_⟩
  show (formBlock atWindowEnd).pi ≠ _
  unfold formBlock
  rw [h]
  show Peripheral.oracle 1 ≠ Peripheral.oracle 0
  decide

theorem witness_RunningAlwaysSteps : base.phase = .running := by decide

theorem witness_HaltedAndStopped :
    next (about 0x89280000#32 base) (fun t => t.phase = .halted (.unsupportedFeature .unalignedForm))
    ∧ ∀ f, base.phase ≠ .halted f := by
  refine ⟨by decide, fun f h => by cases h⟩

/-- The first and the last byte of the window, an access that leaves it, the bytes on either side; and
windows with a higher and a lower base. -/
theorem witness_TranslateWindow :
    (let inside := fun (cfg : Params) (va : Word) (n : Nat) =>
      0xFFFFFFFFA0000000 ≤ va.toNat ∧ 0xFFFFFFFF00000000 + cfg.kseg1Base.toNat ≤ va.toNat
        ∧ va.toNat + (n - 1) ≤ 0xFFFFFFFFBFFFFFFF
     let d := Params.defaults
     inside d 0xFFFFFFFFA0000000#64 1 ∧ inside d 0xFFFFFFFFBFFFFFFF#64 1 ∧ inside d 0xFFFFFFFFBFFFFFF8#64 8
     ∧ ¬ inside d 0xFFFFFFFFBFFFFFFF#64 2 ∧ ¬ inside d 0xFFFFFFFF9FFFFFFF#64 1
     ∧ ¬ inside d 0xFFFFFFFFC0000000#64 1 ∧ ¬ inside d 0x00000000A0000000#64 1 ∧ ¬ inside d 0#64 1
     ∧ ¬ inside { d with kseg1Base := 0xA0000001#32 } 0xFFFFFFFFA0000000#64 1
     ∧ inside { d with kseg1Base := 0xA0000001#32 } 0xFFFFFFFFA0000001#64 1
     ∧ inside { d with kseg1Base := 0x80000000#32 } 0xFFFFFFFFA0000000#64 1) := by
  decide

/-- The last access of each row, the first one, and those that leave a row, also with half the RAM. -/
theorem witness_PhysicalAccess :
    (let ram := base.cfg.ramSize.val
     let half : Params := { base.cfg with ramSize := ⟨0x02000000, by decide⟩ }
     0x03FFFFFC + 4 ≤ ram ∧ (0x04000000 ≤ 0x04000000 ∧ 0x04000000 + 4 ≤ 0x04040000)
     ∧ (0x04000000 ≤ 0x0403FFFF ∧ 0x0403FFFF + 1 ≤ 0x04040000)
     ∧ (0x04600000 ≤ 0x046FFFFC ∧ 0x046FFFFC + 4 ≤ 0x04700000)
     ∧ (¬ 0x03FFFFFE + 4 ≤ ram ∧ ¬ (0x04000000 ≤ 0x03FFFFFE ∧ 0x03FFFFFE + 4 ≤ 0x04040000)
       ∧ ¬ (0x04600000 ≤ 0x03FFFFFE ∧ 0x03FFFFFE + 4 ≤ 0x04700000))
     ∧ (¬ 0x04040000 + 1 ≤ ram ∧ ¬ (0x04000000 ≤ 0x04040000 ∧ 0x04040000 + 1 ≤ 0x04040000)
       ∧ ¬ (0x04600000 ≤ 0x04040000 ∧ 0x04040000 + 1 ≤ 0x04700000))
     ∧ (0x01FFFFFC + 4 ≤ half.ramSize.val ∧ ¬ 0x02000000 + 1 ≤ half.ramSize.val)
     ∧ 0x2000 ≤ 0x3FFFF ∧ base.mem.wf = true) := by
  decide

/-- A write of the coprocessor row whose written bytes fall on different bytes. -/
theorem witness_PhysicalAccess_mirror :
    ∀ i < 4, ∀ j < 4, i < j → (0x04001FFE + j) % 8192 ≠ (0x04001FFE + i) % 8192 := by decide

/-- 20_memory.md R96, R97, R100; log 16: another cartridge base, and an access beyond a smaller RAM. -/
theorem test_parameters_of_the_map :
    physRead 0x02000000 4 { base with cfg.ramSize := ⟨0x02000000, by decide⟩ }
      = .fatal (.memoryFault (.address 0x02000000)) { base with cfg.ramSize := ⟨0x02000000, by decide⟩ }
    ∧ runDma ⟨0x20000000#32, 0#32, 1#32⟩ { base with cart := [5#8], cfg.cartRomBase := 0x20000000#32 }
      = .ok () { base with cart := [5#8], cfg.cartRomBase := 0x20000000#32, mem := base.mem.set 0 5#8 } := by
  decide

/-- A cartridge of 512 bytes, byte `i` being `i` modulo 256. -/
def cart512 : List Byte := (List.range 512).map (BitVec.ofNat 8)

theorem witness_DmaCopies :
    (let s : State := { base with cart := cart512 }
     let d := fun (a b l : BitVec 32) => ({ source := a, destination := b, length := l } : DmaDescriptor)
     let fits := d 0x10000000#32 0x03FFFE00#32 512#32
     let outsideCart := d 0x10000001#32 0#32 512#32
     let outsideRam := d 0x10000000#32 0x03FFFE01#32 512#32
     let back := d 0x03FFFFFF#32 0x10000000#32 1#32
     let backOutside := d 0x03FFFFFF#32 0x10000000#32 2#32
     s.mem.wf = true ∧ 0x140 ≤ s.cart.length ∧ 0 < s.cfg.cartRomBase.toNat
     ∧ s.cfg.cartRomBase.toNat + 0x40 < 2 ^ 32 ∧ 0x100 ≤ s.cfg.ramSize.val
     ∧ fits.source.toNat - s.cfg.cartRomBase.toNat + fits.length.toNat ≤ s.cart.length
     ∧ fits.destination.toNat + fits.length.toNat ≤ s.cfg.ramSize.val
     ∧ s.cart.length < outsideCart.source.toNat - s.cfg.cartRomBase.toNat + outsideCart.length.toNat
     ∧ outsideRam.source.toNat - s.cfg.cartRomBase.toNat + outsideRam.length.toNat ≤ s.cart.length
     ∧ s.cfg.ramSize.val < outsideRam.destination.toNat + outsideRam.length.toNat
     ∧ back.source.toNat + back.length.toNat ≤ s.cfg.ramSize.val
     ∧ s.cfg.ramSize.val < backOutside.source.toNat + backOutside.length.toNat
     ∧ back.source.toNat < s.cfg.cartRomBase.toNat ∧ s.cfg.cartRomBase.toNat ≤ back.destination.toNat
     ∧ s.cfg.cartRomBase.toNat ≤ fits.source.toNat ∧ fits.destination.toNat < s.cfg.cartRomBase.toNat) := by
  decide +kernel

/-- The last word of the coprocessor row and the first and last doubleword of RAM, a half inside the word,
and both load orders. -/
theorem witness_StoreThenLoad :
    inMemory base.cfg 0xFFFFFFFFA403FFFC#64 4 0x0403FFFC ∧ inMemory base.cfg 0xFFFFFFFFA0000000#64 8 0
    ∧ inMemory base.cfg 0xFFFFFFFFA3FFFFF8#64 8 0x03FFFFF8 ∧ inMemory base.cfg 0xFFFFFFFFA403FFFE#64 2 0x0403FFFE
    ∧ inMemory base.cfg 0xFFFFFFFFA403FFFF#64 1 0x0403FFFF ∧ base.mem.wf = true
    ∧ 2 % 2 = 0 ∧ 2 + 2 ≤ 4 ∧ base.cfg.loadByteOrder = .big
    ∧ ({ base with cfg.loadByteOrder := .little } : State).cfg.loadByteOrder = .little := by
  refine ⟨⟨by decide, by decide, .inr (by decide)⟩, ⟨by decide, by decide, .inl (by decide)⟩,
    ⟨by decide, by decide, .inl (by decide)⟩, ⟨by decide, by decide, .inr (by decide)⟩,
    ⟨by decide, by decide, .inr (by decide)⟩, by decide, by decide, by decide, by decide, by decide⟩

/-- 20_memory.md R107, a doubleword: in the big-endian order it comes back with its bytes reversed, and the
halfword at offset 2 sees bytes 2 and 3. -/
theorem test_store_then_load :
    (match memWrite 0xFFFFFFFFA0000008#64 8 0x1122334455667788#64 base with
     | .ok () t => memRead 0xFFFFFFFFA0000008#64 8 t == .ok 0x8877665544332211#64 t
         && memRead 0xFFFFFFFFA000000A#64 2 t == .ok 0x6655#64 t
     | .fatal _ _ => false) = true := by
  decide

/-- A state every invariant holds of, with memory that is not empty, whose step runs a store. -/
def storeState : State := (about 0xAD280000#32 loadBase).writeX 9 0xFFFFFFFFA4000800#64

theorem witness_invariants :
    storeState.memoryOk ∧ storeState.controlOk ∧ storeState.llbitOk
    ∧ { storeState with block := [⟨A, 0x03E00008#32⟩, ⟨A + 4#64, 0#32⟩] }.sequenceOk
    ∧ (inSlot 0#32).sequenceOk
    ∧ next storeState (fun t => t.mem ≠ storeState.mem) := by
  refine ⟨⟨by decide, by decide⟩, ⟨by decide, by decide, by decide⟩, rfl,
    .inr ⟨(by decide : isCT 0x03E00008#32 = true), ⟨rfl, rfl, trivial⟩, by decide⟩, ⟨by decide, 0#32, by decide⟩, by decide⟩

/-- `base` with 32 bits of every width that 00_scope.md R8 leaves open. -/
def narrow : State :=
  { base with cfg.pcWidth := ⟨0⟩, cfg.eaWidth := ⟨0⟩, cfg.fprWidth := ⟨0⟩, cfg.cp0Width := ⟨0⟩ }

/-- Values of their widths under the defaults and under 32 bits, and one that 32 bits do not hold. -/
theorem witness_StepKeepsWidths :
    storeState.widthsOk ∧ narrow.widthsOk ∧ (∃ t, step narrow = .next t)
    ∧ ¬ ({ narrow with pc := 0xA4000100#64 } : State).widthsOk := by
  refine ⟨⟨by decide, by decide⟩, ⟨by decide, by decide⟩, ⟨_, rfl⟩, fun h => absurd h.1 (by decide)⟩

/-- 00_scope.md R8; log 21: `jr` to an address without its sign bits, `dmtc1` of a doubleword, `dmfc0` of an
EPC that `dmtc0` wrote, and a load whose base has no sign bits, under 32 bits. -/
theorem test_narrow_widths :
    next { narrow with pc := A + 4#64, block := [⟨A + 4#64, 0#32⟩],
                       latch := some { taken := true, target := 0xA4000200#64, ctAddr := A } }
      (fun t => t.pc = 0xFFFFFFFFA4000200#64)
    ∧ after 0x44A82000#32 (narrow.writeX 8 0x123456789ABCDEF0#64) (fun t => t.readF 4 = 0xFFFFFFFF9ABCDEF0#64)
    ∧ after 0x40287000#32 (narrow.writeC0 14 0x123456789ABCDEF0#64) (fun t => t.readX 8 = 0xFFFFFFFF9ABCDEF0#64)
    ∧ after 0x8D280000#32 ({ narrow with mem := loadBase.mem }.writeX 9 0xA4000800#64)
      (fun t => t.readX 8 = 0xFFFFFFFF80010203#64) := by
  decide

theorem witness_RegisterWidths : (33 : Nat) < 64 ∧ min 33 ((⟨0⟩ : RegWidth).bits - 1) = 31 := by decide

theorem witness_RegisterZero : ∃ t, step storeState = .next t := ⟨_, rfl⟩

/-- The store, and boot stage two. -/
theorem witness_OnlyStoresWriteMemory :
    next storeState (fun t => t.mem ≠ storeState.mem)
    ∧ next { State.reset with phase := .boot1Done, cart := List.replicate 4096 1#8 }
      (fun t => t.mem ≠ []) := by
  decide +kernel

theorem witness_WhoWritesRegisters :
    next ((about 0x44C8F800#32 base).writeX 8 1#64) (fun t => t.fcsr ≠ base.fcsr)
    ∧ next ((about 0x44882000#32 base).writeX 8 1#64) (fun t => t.f ≠ base.f)
    ∧ next ((about 0x01000011#32 base).writeX 8 1#64) (fun t => t.hi ≠ base.hi)
    ∧ next ((about 0x01000013#32 base).writeX 8 1#64) (fun t => t.lo ≠ base.lo)
    ∧ next (about 0x0000000C#32 base) (fun t => t.c0 ≠ base.c0) := by
  decide

theorem witness_ExceptionEntry :
    base.exl = false ∧ base.latch = none ∧ base.bev = false
    ∧ (inSlot 0#32).exl = false ∧ (inSlot 0#32).latch = some ⟨true, A + 16#64, A⟩
    ∧ (base.setC0 12 0x34400002#64).exl = true ∧ (base.setC0 12 0x34400002#64).bev = true := by
  decide

theorem witness_ExceptionThenHalt :
    base.phase = .running ∧ 0 < base.cfg.blockScanLimit ∧ base.bev = false
    ∧ (base.setC0 12 0x34400000#64).bev = true
    ∧ base.cfg.excVector0 = 0xFFFFFFFF80000180#64 ∧ base.cfg.excVector1 = 0xFFFFFFFFBFC00380#64
    ∧ base.cfg.kseg1Base = 0xA0000000#32 := by
  decide

/-- Operands on which each trap holds and operands on which it does not. -/
theorem witness_RegisterTraps :
    (let s := (base.writeX 8 0xFFFFFFFFFFFFFFFF#64).writeX 9 1#64
     (s.readX 9).toInt ≥ (s.readX 8).toInt ∧ ¬ (s.readX 8).toInt ≥ (s.readX 9).toInt
     ∧ (s.readX 8).toNat ≥ (s.readX 9).toNat ∧ ¬ (s.readX 9).toNat ≥ (s.readX 8).toNat
     ∧ s.readX 8 ≠ s.readX 9 ∧ s.readX 0 = s.readX 1) := by
  decide

theorem witness_ImmediateTraps :
    (let s := base.writeX 8 0xFFFFFFFFFFFFFFFF#64
     (s.readX 8).toInt ≥ (0x8000#16 : BitVec 16).toInt ∧ ¬ (s.readX 8).toInt ≥ (1#16 : BitVec 16).toInt
     ∧ (s.readX 8).toNat ≥ ((0x8000#16 : BitVec 16).signExtend 64).toNat
     ∧ ¬ (s.readX 0).toNat ≥ ((0x8000#16 : BitVec 16).signExtend 64).toNat
     ∧ s.readX 8 = (0xFFFF#16 : BitVec 16).signExtend 64
     ∧ s.readX 8 ≠ (0x7FFF#16 : BitVec 16).signExtend 64) := by
  decide

theorem witness_CoprocessorUnusable :
    (base.setC0 12 0x14000000#64).cu1 = false ∧ (base.setC0 12 0x14000000#64).latch = none
    ∧ (0x48000000#32 : InstrWord).extractLsb' 26 6 = 0x12#6
    ∧ (0x4C000000#32 : InstrWord).extractLsb' 26 6 = 0x13#6 := by
  decide

theorem witness_ExceptionReturn :
    base.latch = none ∧ base.erl = false ∧ (base.setC0 12 0x34000006#64).erl = true := by
  decide

theorem witness_DelaySlotTransfer :
    (inSlot 0#32).latch = some ⟨true, A + 16#64, A⟩ ∧ (inSlot 0#32).exl = false
    ∧ (decodeIr 0x08000000#32).isControlFlow = true ∧ decodeWord 0x42000018#32 = some .eret
    ∧ decodeWord 0x70000000#32 = none ∧ decodeWord 0x0000000C#32 = some (.syscall 0#20)
    ∧ decodeWord 0x0000000D#32 = some (.brk 0#20) := by
  decide

/-- In a delay slot: operands on which each trap fires, sums that overflow, and `CU1` = 0. -/
theorem witness_DelaySlotTransfer_raises :
    (let s := ((inSlot 0#32).writeX 8 0x7FFFFFFF#64).writeX 9 0x7FFFFFFFFFFFFFFF#64
     let r32 := fun r => ((s.readX r).extractLsb' 0 32).toInt
     let m := s.writeX 8 0x8000000000000000#64
     s.latch = some ⟨true, A + 16#64, A⟩ ∧ s.exl = false
     ∧ (s.readX 9).toInt ≥ (s.readX 8).toInt ∧ (s.readX 8).toInt < (s.readX 9).toInt
     ∧ (s.readX 9).toNat ≥ (s.readX 8).toNat ∧ (s.readX 8).toNat < (s.readX 9).toNat
     ∧ s.readX 8 = s.readX 8 ∧ s.readX 8 ≠ s.readX 9
     ∧ (s.readX 8).toInt ≥ (1#16 : BitVec 16).toInt ∧ (s.readX 0).toInt < (1#16 : BitVec 16).toInt
     ∧ (s.readX 8).toNat ≥ ((1#16 : BitVec 16).signExtend 64).toNat
     ∧ (s.readX 0).toNat < ((0x8000#16 : BitVec 16).signExtend 64).toNat
     ∧ s.readX 0 = (0#16 : BitVec 16).signExtend 64 ∧ s.readX 8 ≠ (0#16 : BitVec 16).signExtend 64
     ∧ ¬ (r32 8 + (1#16 : BitVec 16).toInt ≤ 2 ^ 31 - 1) ∧ ¬ (r32 8 + r32 8 ≤ 2 ^ 31 - 1)
     ∧ ¬ (r32 8 - r32 9 ≤ 2 ^ 31 - 1)
     ∧ ¬ ((s.readX 9).toInt + (1#16 : BitVec 16).toInt ≤ 2 ^ 63 - 1)
     ∧ ¬ ((s.readX 9).toInt + (s.readX 8).toInt ≤ 2 ^ 63 - 1)
     ∧ ¬ ((s.readX 9).toInt - (m.readX 8).toInt ≤ 2 ^ 63 - 1)
     ∧ (s.setC0 12 0x14000000#64).cu1 = false ∧ (s.setC0 12 0x14000000#64).exl = false) := by
  decide

/-- 40_pipeline.md R210: an overflow in a delay slot reports the branch. -/
theorem test_overflow_in_slot :
    next ((inSlot 0x01084820#32).writeX 8 0x7FFFFFFF#64) (fun t => t.epc = A ∧ t.cause = 0x80000030#64) := by
  decide

/-- For every width: an address of each of the five kinds, at the ends of the rows and of the window. -/
theorem witness_loads_and_stores :
    (0xFFFFFFFFA0000001#64 : Word).toNat % 2 ≠ 0 ∧ (0xFFFFFFFFA0000002#64 : Word).toNat % 4 ≠ 0
    ∧ (0xFFFFFFFFA0000004#64 : Word).toNat % 8 ≠ 0
    ∧ (∀ n ∈ [1, 2, 4, 8], (0#64 : Word).toNat % n = 0 ∧ physical base.cfg 0#64 n = none)
    ∧ (∀ n ∈ [1, 2, 4, 8], (0xFFFFFFFFA4040000#64 : Word).toNat % n = 0
      ∧ physical base.cfg 0xFFFFFFFFA4040000#64 n = some 0x04040000 ∧ dispatch base.cfg 0x04040000 n = none)
    ∧ (∀ n ∈ [1, 2, 4, 8], (0xFFFFFFFFA4000000#64 : Word).toNat % n = 0
      ∧ physical base.cfg 0xFFFFFFFFA4000000#64 n = some 0x04000000 ∧ dispatch base.cfg 0x04000000 n = some .sp)
    ∧ (∀ n ∈ [1, 2, 4, 8], (0xFFFFFFFFA4000000#64 - BitVec.ofNat 64 n : Word).toNat % n = 0
      ∧ physical base.cfg (0xFFFFFFFFA4000000#64 - BitVec.ofNat 64 n) n = some (0x04000000 - n)
      ∧ dispatch base.cfg (0x04000000 - n) n = some .ram)
    ∧ (∀ n ∈ [1, 2, 4, 8], (0xFFFFFFFFA4700000#64 - BitVec.ofNat 64 n : Word).toNat % n = 0
      ∧ physical base.cfg (0xFFFFFFFFA4700000#64 - BitVec.ofNat 64 n) n = some (0x04700000 - n)
      ∧ dispatch base.cfg (0x04700000 - n) n = some .pi) := by
  decide +kernel

/-- A store in the window that the collaborator answers with nothing, with a DMA that is done, and with a
DMA that is fatal. -/
theorem witness_Stores_window :
    (let p : Peripheral := .reference 0x1000#32 0x10000000#32
     let s : State := { base with cart := cart512, pi := p }
     (p.write 0x04600010 (registerBytes 0xFF#64 4)).1 = none
     ∧ (p.write 0x0460000C (registerBytes 0xFF#64 4)).1 = some ⟨0x10000000#32, 0x1000#32, 0x100#32⟩
     ∧ runDma ⟨0x10000000#32, 0x1000#32, 0x100#32⟩ s
       = .ok () { s with mem := s.mem.setBytes 0x1000 (cart512.take 256) }
     ∧ (p.write 0x0460000C (registerBytes 0xFFF#64 4)).1 = some ⟨0x10000000#32, 0x1000#32, 0x1000#32⟩
     ∧ runDma ⟨0x10000000#32, 0x1000#32, 0x1000#32⟩ s = .fatal (.memoryFault .dmaCartRange) s) := by
  decide +kernel

theorem witness_FloatLoadsAndStores : base.cu1 = true := by decide

/-- Sums at the last value that fits and at the first that does not. -/
theorem witness_TrappingArithmetic :
    (let s := ((base.writeX 8 0x7FFFFFFF#64).writeX 9 1#64).writeX 10 0x7FFFFFFFFFFFFFFF#64
     let r32 := fun r => ((s.readX r).extractLsb' 0 32).toInt
     (r32 8 + r32 0 ≤ 2 ^ 31 - 1) ∧ ¬ (r32 8 + r32 9 ≤ 2 ^ 31 - 1)
     ∧ ((s.readX 10).toInt + (s.readX 0).toInt ≤ 2 ^ 63 - 1)
     ∧ ¬ ((s.readX 10).toInt + (1#16 : BitVec 16).toInt ≤ 2 ^ 63 - 1)) := by
  decide

theorem witness_Divide :
    (let s := (base.writeX 8 0xFFFFFFFF80000000#64).writeX 9 0xFFFFFFFFFFFFFFFE#64
     ((s.readX 9).extractLsb' 0 32).toInt ≠ 0 ∧ s.readX 9 ≠ 0#64
     ∧ ¬ (((s.readX 8).extractLsb' 0 32).toInt = -2 ^ 31 ∧ ((s.readX 9).extractLsb' 0 32).toInt = -1)
     ∧ ((s.readX 9).extractLsb' 0 32).toNat ≠ 0
     ∧ ¬ ((s.readX 8).toInt = -2 ^ 63 ∧ (s.readX 9).toInt = -1)) := by
  decide

theorem witness_DivideCorners :
    (let s := (base.writeX 8 0x8000000000000000#64).writeX 9 0xFFFFFFFFFFFFFFFF#64
     let s32 := (base.writeX 8 0xFFFFFFFF80000000#64).writeX 9 0xFFFFFFFFFFFFFFFF#64
     s.cfg.divCorner = .table ∧ ({ s with cfg.divCorner := .free } : State).cfg.divCorner = .free
     ∧ s.readX 0 = 0#64 ∧ ((s.readX 0).extractLsb' 0 32).toInt = 0
     ∧ ((s.readX 0).extractLsb' 0 32).toNat = 0
     ∧ (s.readX 8).toInt = -2 ^ 63 ∧ (s.readX 9).toInt = -1
     ∧ ((s32.readX 8).extractLsb' 0 32).toInt = -2 ^ 31
     ∧ ((s32.readX 9).extractLsb' 0 32).toInt = -1) := by
  decide

/-- Every condition of a likely branch both holds and fails somewhere. -/
theorem witness_jumps_and_branches :
    (let s := (base.writeX 8 0x8000000000000000#64).writeX 9 1#64
     s.latch = none ∧ s.cu1 = true
     ∧ s.readX 8 = s.readX 8 ∧ s.readX 8 ≠ s.readX 9
     ∧ (s.readX 8).msb = true ∧ (s.readX 9).msb = false ∧ s.readX 0 = 0#64 ∧ s.readX 9 ≠ 0#64
     ∧ s.fcsr.getLsbD 23 = false
     ∧ ({ s with fcsr := 0x00800000#64 } : State).fcsr.getLsbD 23 = true) := by
  decide

/-- The delay slot `ori $8, $0, 5` of a taken branch. -/
theorem witness_DelaySlotThenTarget :
    (inSlot 0x34080005#32).sequenceOk ∧ (inSlot 0x34080005#32).phase = .running
    ∧ (inSlot 0x34080005#32).latch = some ⟨true, A + 16#64, A⟩
    ∧ (inSlot 0x34080005#32).block = [⟨A + 4#64, 0x34080005#32⟩]
    ∧ decodeWord 0x34080005#32 = some (.ori 0 8 5#16)
    ∧ CompletesWriting (.ori 0 8 5#16) (inSlot 0x34080005#32) 8 5#64
    ∧ ∃ t, step (inSlot 0x34080005#32) = .next t := by
  refine ⟨⟨by decide, 0x34080005#32, by decide⟩, rfl, rfl, rfl, by decide, completesWriting_of rfl, _, rfl⟩

theorem witness_DelaySlotThenTarget_pair :
    (let s : State := { base.writeX 9 1#64 with
       block := [⟨A, encode (.beq 8 9 4#16)⟩, ⟨A + 4#64, encode (.ori 0 8 5#16)⟩] }
     s.phase = .running ∧ s.latch = none ∧ s.readX 8 ≠ s.readX 9 ∧ s.pc = A) := by
  decide

theorem witness_WriteMasks :
    (29 : RegIdx) ∈ ([0, 1, 5, 6, 9, 11, 17, 18, 19, 26, 27, 29] : List RegIdx)
    ∧ (30 : RegIdx) ∈ ([2, 3, 4, 8, 10, 14, 30] : List RegIdx)
    ∧ (31 : RegIdx) ∈ ([7, 15, 21, 22, 23, 24, 25, 31] : List RegIdx) := by
  decide

theorem witness_Cop1Moves : base.cu1 = true ∧ (30 : RegIdx) ≠ 0 ∧ (30 : RegIdx) ≠ 31 := by decide

theorem witness_BootStageOne : State.reset.phase = .reset ∧ ∃ t, step State.reset = .next t :=
  ⟨rfl, _, rfl⟩

/-- A cartridge of 4096 bytes and one of 4095. -/
theorem witness_BootStageTwo :
    (bootStage1 State.reset).phase = .boot1Done ∧ 4096 ≤ (List.replicate 4096 1#8).length
    ∧ (List.replicate 4095 1#8).length < 4096 ∧ (bootStage1 State.reset).mem.wf = true
    ∧ (bootStage1 State.reset).cfg.bootEntry = .windowStart
    ∧ ({ Params.defaults with bootEntry := .bootCode } : Params).bootEntry = .bootCode := by
  simp only [List.length_replicate]
  decide

theorem witness_BootedState :
    4096 ≤ (List.replicate 4096 1#8).length ∧ Params.defaults.bootEntry = .windowStart
    ∧ ({ Params.defaults with bootEntry := .bootCode } : Params).bootEntry = .bootCode := by
  simp only [List.length_replicate]
  decide

/-- 00_scope.md R8, 10_state.md R71: reset takes the parameters it is given. -/
theorem test_reset_parameters :
    (let s := hostReset [] (.oracle 0) { Params.defaults with
       pridValue := 0x0C11#16, fcr0Value := 0x0D22#32, initRam := [0#8, 7#8], initImem := [9#8] }
     s.readC0 15 = 0x0C11#64 ∧ s.readFcr 0 = some 0x0D22#64 ∧ s.ram 1 = 7#8 ∧ s.imem 0 = 9#8
     ∧ s.ram 0 = 0#8 ∧ s.mem.wf = true) := by
  decide

end Sys2Proof.Tests
end

/-! # The registers whose width is a parameter (00_scope.md R8; log 21)

What a register of a width holds, and that every step keeps the program counter and the floating-point
registers at values of their widths. A step writes the program counter through `toPc` only, and a
floating-point register through `writeF` only; the laws of the engine say so once for every operation, so
each lemma below is about one way a step can end (`step_cases`, `StepOf`). -/

namespace Sys2Proof.Machine

/-- Settles O24: a register of the default width holds the value, and the bits of what a register of any
width holds are those of `getLsbD_fitWidth`. -/
theorem registerWidths : Obligations.RegisterWidths :=
  ⟨⟨rfl, rfl, rfl, rfl, rfl⟩, fitWidth_full, fun w v _ hk => getLsbD_fitWidth w v hk⟩

/-! ## The ends of an operation -/

/-- Setting the program counter to an address in its width, the floating-point registers as they were. -/
theorem widthsOk_of_pc_eq_toPc {s t : State} {a : Word} (h : s.widthsOk) (hp : t.pc = toPc s.cfg a)
    (hf : t.f = s.f) (hc : t.cfg = s.cfg) : t.widthsOk := by
  obtain ⟨-, hfpr⟩ := h
  refine ⟨?_, fun i => ?_⟩
  · rw [hp, hc, toPc_toPc]
  · rw [State.readF_congr hf, hc]
    exact hfpr i

theorem advance_widthsOk {s : State} (h : s.widthsOk) : s.advance.widthsOk :=
  widthsOk_of_pc_eq_toPc h (State.toPc_nextPc s).symm rfl rfl

theorem enterException_widthsOk {s : State} (h : s.widthsOk) (c : BitVec 5) (e : BitVec 2) :
    (s.enterException c e).widthsOk :=
  widthsOk_of_pc_eq_toPc h rfl rfl rfl

/-- `ERET` goes to ErrorEPC or EPC, by `Status.ERL` (46_system.md R454). -/
theorem State.returnFromException_pc (s : State) :
    s.returnFromException.pc = toPc s.cfg (if s.erl then s.errorEpc else s.epc) := by
  unfold State.returnFromException
  split <;> rfl

theorem returnFromException_widthsOk {s : State} (h : s.widthsOk) : s.returnFromException.widthsOk :=
  widthsOk_of_pc_eq_toPc h s.returnFromException_pc s.returnFromException_f s.returnFromException_cfg

/-- After a control transfer the program counter is at the delay slot, or past the nullified one. -/
theorem afterTransfer_widthsOk {s : State} (h : s.widthsOk) (op : CfOp) : (s.afterTransfer op).widthsOk := by
  have hlink : (s.writeLink op.link).widthsOk := widthsOk_congr h (by simp) (by simp) (by simp)
  unfold State.afterTransfer
  split
  · exact widthsOk_of_pc_eq_toPc hlink rfl rfl rfl
  · exact widthsOk_of_pc_eq_toPc hlink rfl rfl rfl

/-- Every way the step that executes an operation can end keeps the widths. -/
theorem StepOf.widthsOk {d : Decoded} {s t : State} (hstep : StepOf d s t) (h : s.widthsOk) : t.widthsOk := by
  cases hstep with
  | done _ ho => exact advance_widthsOk (ho.widths h)
  | exception c e => exact enterException_widthsOk h c e
  | redirected _ => exact widthsOk_congr (returnFromException_widthsOk h) rfl rfl rfl
  | fatal f p => exact widthsOk_congr h rfl rfl rfl
  | transfer op _ _ => exact afterTransfer_widthsOk h op

/-! ## The boot stages and the formation of a block -/

theorem bootStage1_widthsOk {s : State} (h : s.widthsOk) : (bootStage1 s).widthsOk :=
  widthsOk_congr h (State.writeX_pc ..) (State.writeX_f ..) (State.writeX_cfg ..)

/-- Both entry addresses are the sign extension of 32 bits, so a program counter of any width holds them
(70_reset_and_hazards.md R513). -/
theorem toPc_bootEntryPc (cfg : Params) (e : BootEntry) :
    toPc cfg (Config.bootEntryPc e) = Config.bootEntryPc e := by
  cases e with
  | windowStart => exact toPc_signExtend cfg 0xA4000000#32
  | bootCode => exact toPc_signExtend cfg 0xA4000040#32

theorem bootStage2_widthsOk {s : State} (h : s.widthsOk) : (bootStage2 s).widthsOk := by
  unfold bootStage2
  split
  · exact widthsOk_congr h rfl rfl rfl
  · exact widthsOk_of_pc_eq_toPc h (toPc_bootEntryPc s.cfg _).symm rfl rfl

theorem formBlock_widthsOk {s : State} (h : s.widthsOk) : (formBlock s).widthsOk := by
  obtain ⟨b, p, hform, -⟩ | ⟨f, p, hform⟩ := formBlock_cases s
  · rw [hform]
    exact widthsOk_congr h rfl rfl rfl
  · rw [hform]
    exact widthsOk_congr h rfl rfl rfl

/-! ## Every step -/

/-- Settles O20, by the cases of a step: a boot stage, the formation of a block, the execution of an
operation. -/
theorem stepKeepsWidths : Obligations.StepKeepsWidths := by
  intro s t h hstep
  cases step_cases hstep with
  | boot1 _ ht => exact ht ▸ bootStage1_widthsOk h
  | boot2 _ ht => exact ht ▸ bootStage2_widthsOk h
  | form _ _ ht => exact ht ▸ formBlock_widthsOk h
  | exec _ _ _ _ hop => exact hop.widthsOk h

end Sys2Proof.Machine

/-! # What every step keeps: memory, the control registers, the blocks (10_state.md R40 to R67)

Each invariant is kept by every way a step can end (`step_cases`, `StepOf`). An operation that is done keeps
memory and the reserved bits by `Ordinary`; what is left are the ends that move the machine on. -/

namespace Sys2Proof.Machine

section
variable (s : State) (op : CfOp)

/-! ## What a control transfer leaves as it was -/

@[simp] theorem State.afterTransfer_hi : (s.afterTransfer op).hi = s.hi := by
  unfold State.afterTransfer; split <;> simp
@[simp] theorem State.afterTransfer_lo : (s.afterTransfer op).lo = s.lo := by
  unfold State.afterTransfer; split <;> simp
@[simp] theorem State.afterTransfer_llbit : (s.afterTransfer op).llbit = s.llbit := by
  unfold State.afterTransfer; split <;> simp
@[simp] theorem State.afterTransfer_f : (s.afterTransfer op).f = s.f := by
  unfold State.afterTransfer; split <;> simp
@[simp] theorem State.afterTransfer_fcr0 : (s.afterTransfer op).fcr0 = s.fcr0 := by
  unfold State.afterTransfer; split <;> simp
@[simp] theorem State.afterTransfer_fcsr : (s.afterTransfer op).fcsr = s.fcsr := by
  unfold State.afterTransfer; split <;> simp
@[simp] theorem State.afterTransfer_c0 : (s.afterTransfer op).c0 = s.c0 := by
  unfold State.afterTransfer; split <;> simp
@[simp] theorem State.afterTransfer_mem : (s.afterTransfer op).mem = s.mem := by
  unfold State.afterTransfer; split <;> simp
@[simp] theorem State.afterTransfer_cart : (s.afterTransfer op).cart = s.cart := by
  unfold State.afterTransfer; split <;> simp
@[simp] theorem State.afterTransfer_phase : (s.afterTransfer op).phase = s.phase := by
  unfold State.afterTransfer; split <;> simp
@[simp] theorem State.afterTransfer_cfg : (s.afterTransfer op).cfg = s.cfg := by
  unfold State.afterTransfer; split <;> simp

end

/-! ## Memory (R59, R60) -/

/-- Every way the step that executes an operation can end keeps the form of memory. -/
theorem StepOf.memoryOk {d : Decoded} {s t : State} (hstep : StepOf d s t) (h : s.memoryOk) : t.memoryOk := by
  cases hstep with
  | done _ ho => exact memoryOk_of_keeps h ho.mem ho.cfg
  | exception c e => exact memoryOk_congr h rfl rfl
  | redirected _ => exact memoryOk_congr h s.returnFromException_mem s.returnFromException_cfg
  | fatal f p => exact memoryOk_congr h rfl rfl
  | transfer op _ _ => exact memoryOk_congr h (s.afterTransfer_mem op) (s.afterTransfer_cfg op)

theorem bootStage1_memoryOk {s : State} (h : s.memoryOk) : (bootStage1 s).memoryOk :=
  memoryOk_congr h (State.writeX_mem ..) (State.writeX_cfg ..)

/-- Boot stage two writes the 4096 bytes of DMEM (70_reset_and_hazards.md R513). -/
theorem bootStage2_memoryOk {s : State} (h : s.memoryOk) : (bootStage2 s).memoryOk := by
  obtain ⟨hwf, hexists⟩ := h
  unfold bootStage2
  split
  · exact ⟨hwf, hexists⟩
  · refine ⟨Memory.setBytes_wf hwf _ _, Memory.setBytes_keys (fun i hi => .inr ?_) hexists⟩
    simp only [List.length_take, Config.bootCopyLen] at hi
    simp only [Config.spMirror]
    omega

theorem formBlock_memoryOk {s : State} (h : s.memoryOk) : (formBlock s).memoryOk := by
  obtain ⟨b, p, hform, -⟩ | ⟨f, p, hform⟩ := formBlock_cases s
  · rw [hform]
    exact memoryOk_congr h rfl rfl
  · rw [hform]
    exact memoryOk_congr h rfl rfl

/-- Settles O17, by the cases of a step: every write of memory is at bytes that exist. -/
theorem stepKeepsMemoryForm : Obligations.StepKeepsMemoryForm := by
  intro s t h hstep
  cases step_cases hstep with
  | boot1 _ ht => exact ht ▸ bootStage1_memoryOk h
  | boot2 _ ht => exact ht ▸ bootStage2_memoryOk h
  | form _ _ ht => exact ht ▸ formBlock_memoryOk h
  | exec _ _ _ _ hop => exact hop.memoryOk h

/-! ## The control registers (R40 to R47, R52, R53) -/

/-- Every way the step that executes an operation can end keeps the reserved bits. -/
theorem StepOf.controlOk {d : Decoded} {s t : State} (hstep : StepOf d s t) (h : s.controlOk) :
    t.controlOk := by
  cases hstep with
  | done _ ho => exact controlOk_congr (ho.control h) rfl rfl rfl rfl
  | exception c e => exact enterException_controlOk h c e
  | redirected _ => exact controlOk_congr (returnFromException_controlOk h) rfl rfl rfl rfl
  | fatal f p => exact controlOk_congr h rfl rfl rfl rfl
  | transfer op _ _ =>
    exact controlOk_congr h (s.afterTransfer_c0 op) (s.afterTransfer_fcr0 op) (s.afterTransfer_fcsr op)
      (s.afterTransfer_cfg op)

/-- Boot stage one writes Status and Config through their masks (70_reset_and_hazards.md R512). -/
theorem bootStage1_controlOk {s : State} (h : s.controlOk) : (bootStage1 s).controlOk :=
  have hseeded := writeC0_controlOk (writeC0_controlOk h 12 s.cfg.bootStatus) 16 s.cfg.bootConfig
  controlOk_congr (writeX_controlOk hseeded 29 s.cfg.bootSp) rfl rfl rfl rfl

theorem bootStage2_controlOk {s : State} (h : s.controlOk) : (bootStage2 s).controlOk := by
  unfold bootStage2
  split
  · exact controlOk_congr h rfl rfl rfl rfl
  · exact controlOk_congr h rfl rfl rfl rfl

theorem formBlock_controlOk {s : State} (h : s.controlOk) : (formBlock s).controlOk := by
  obtain ⟨b, p, hform, -⟩ | ⟨f, p, hform⟩ := formBlock_cases s
  · rw [hform]
    exact controlOk_congr h rfl rfl rfl rfl
  · rw [hform]
    exact controlOk_congr h rfl rfl rfl rfl

/-- Settles O18, by the cases of a step: software writes through the masks, and the hardware only the
fields of `hardwareMask`. -/
theorem stepKeepsReservedBits : Obligations.StepKeepsReservedBits := by
  intro s t h hstep
  cases step_cases hstep with
  | boot1 _ ht => exact ht ▸ bootStage1_controlOk h
  | boot2 _ ht => exact ht ▸ bootStage2_controlOk h
  | form _ _ ht => exact ht ▸ formBlock_controlOk h
  | exec _ _ _ _ hop => exact hop.controlOk h

/-! ## The control-transfer test (40_pipeline.md R193, R194) -/

/-- The decoded word is a control transfer. -/
def isTransfer : Option Instr → Bool
  | some i => i.ir.isControlFlow
  | none => false

@[simp] theorem isTransfer_some (i : Instr) : isTransfer (some i) = i.ir.isControlFlow := rfl
@[simp] theorem isTransfer_none : isTransfer none = false := rfl

theorem isControlFlow_decodeIr (w : InstrWord) : (decodeIr w).isControlFlow = isTransfer (decodeWord w) := by
  unfold decodeIr
  cases decodeWord w <;> rfl

theorem isTransfer_decodeSpecial (w : InstrWord) :
    isTransfer (decodeSpecial w) = [0x08#6, 0x09#6].contains (fFunct w) := by
  unfold decodeSpecial
  split <;> simp_all [Instr.ir, Decoded.isControlFlow]

theorem isTransfer_decodeRegimm (w : InstrWord) :
    isTransfer (decodeRegimm w)
      = [0x00#5, 0x01#5, 0x02#5, 0x03#5, 0x10#5, 0x11#5, 0x12#5, 0x13#5].contains (fRtBits w) := by
  unfold decodeRegimm
  split <;> simp_all [Instr.ir, Decoded.isControlFlow]

theorem isTransfer_decodeCop0 (w : InstrWord) : isTransfer (decodeCop0 w) = false := by
  unfold decodeCop0 decodeCop0Co
  split
  · split <;> rfl
  · split <;> rfl

theorem isTransfer_decodeBc1 (w : InstrWord) :
    isTransfer (decodeBc1 w) = [0x00#5, 0x01#5, 0x02#5, 0x03#5].contains (fRtBits w) := by
  unfold decodeBc1
  split <;> simp_all [Instr.ir, Decoded.isControlFlow]

theorem isTransfer_decodeCop1 (w : InstrWord) :
    isTransfer (decodeCop1 w)
      = (fRsBits w == 0x08#5 && [0x00#5, 0x01#5, 0x02#5, 0x03#5].contains (fRtBits w)) := by
  unfold decodeCop1
  split <;> simp_all [isTransfer_decodeBc1, Instr.ir, Decoded.isControlFlow]

/-- The block finder's own test holds exactly of the words that decode to a control transfer, map by map of
the decoder. -/
theorem isCT_eq_isControlFlow (w : InstrWord) : isCT w = (decodeIr w).isControlFlow := by
  rw [isControlFlow_decodeIr]
  unfold isCT decodeWord
  split <;> simp_all [isTransfer_decodeSpecial, isTransfer_decodeRegimm, isTransfer_decodeCop0,
    isTransfer_decodeCop1, Instr.ir, Decoded.isControlFlow]

/-! ## Blocks and delay slots (R66, R67; 40_pipeline.md R196, R201) -/

theorem sequenceOk_of_latch_none {s : State} (hp : s.phase = .running) (hl : s.latch = none) :
    s.sequenceOk ↔ restOk s.cfg s.pc s.block := by
  simp only [State.sequenceOk, hp, hl]

theorem sequenceOk_of_latch_some {s : State} {p : PendingBranch} (hp : s.phase = .running)
    (hl : s.latch = some p) : s.sequenceOk ↔ delaySlotOk s.cfg s.pc s.block p := by
  simp only [State.sequenceOk, hp, hl]

/-- A running machine that has left its block meets the discipline. -/
theorem sequenceOk_of_block_nil {s : State} (hp : s.phase = .running) (hl : s.latch = none)
    (hb : s.block = []) : s.sequenceOk :=
  (sequenceOk_of_latch_none hp hl).mpr (.inl hb)

theorem sequenceOk_of_halted {s : State} {f : Fatal} (hp : s.phase = .halted f) : s.sequenceOk := by
  simp only [State.sequenceOk, hp]

section
variable {cfg : Params} {pc : PcWord} {e : BlockEntry} {rest : List BlockEntry}

/-- What follows a straight-line entry is the rest of a block, one word on. -/
theorem restOk_tail (h : restOk cfg pc (e :: rest)) (hct : isCT e.word = false) :
    restOk cfg (toPc cfg (pc + 4#64)) rest := by
  obtain hnil | ⟨hshape, ⟨-, hcons⟩, hlen⟩ := h
  · cases hnil
  · match rest, hshape with
    | [_], hct' => exact absurd (hct.symm.trans hct') Bool.false_ne_true
    | _ :: _ :: _, ⟨_, hshape⟩ =>
      exact .inr ⟨hshape, hcons, Nat.le_trans (Nat.le_succ _) hlen⟩

/-- What follows a control transfer is its delay slot alone, one word on. -/
theorem delaySlot_of_restOk (h : restOk cfg pc (e :: rest)) (hct : isCT e.word = true) :
    ∃ w, rest = [⟨toPc cfg (pc + 4#64), w⟩] := by
  obtain hnil | ⟨hshape, ⟨-, hcons⟩, -⟩ := h
  · cases hnil
  · match rest, hshape, hcons with
    | [d], _, ⟨haddr, _⟩ => exact ⟨d.word, by rw [← haddr]⟩
    | _ :: _ :: _, ⟨hct', _⟩, _ => exact absurd (hct'.symm.trans hct) Bool.false_ne_true

end

section
variable {s : State} {e : BlockEntry} {rest : List BlockEntry}

/-- An operation that is done leaves the rest of the block, or after a delay slot nothing of it. -/
theorem advance_sequenceOk {s' : State} (ho : Ordinary s s') (hp : s.phase = .running)
    (hb : s.block = e :: rest) (hct : isCT e.word = false) (h : s.sequenceOk) : s'.advance.sequenceOk := by
  refine (sequenceOk_of_latch_none (s := s'.advance) (ho.phase.trans hp) rfl).mpr ?_
  show restOk s'.cfg s'.nextPc s'.block.tail
  rw [State.nextPc_congr ho.pc ho.latch ho.cfg, ho.cfg, ho.block, hb]
  cases hl : s.latch with
  | none =>
    rw [sequenceOk_of_latch_none hp hl, hb] at h
    simpa only [State.nextPc, hl, List.tail_cons] using restOk_tail h hct
  | some p =>
    obtain ⟨-, w, hslot⟩ := (sequenceOk_of_latch_some hp hl).mp h
    rw [hb] at hslot
    exact .inl (List.cons.inj hslot).2

/-- A control transfer leaves its delay slot, or has left the block where it nullified it. -/
theorem afterTransfer_sequenceOk (op : CfOp) (hp : s.phase = .running) (hl : s.latch = none)
    (hb : s.block = e :: rest) (hct : isCT e.word = true) (h : s.sequenceOk) :
    (s.afterTransfer op).sequenceOk := by
  have hp' : (s.writeLink op.link).phase = .running := (s.writeLink_phase op.link).trans hp
  rw [sequenceOk_of_latch_none hp hl, hb] at h
  obtain ⟨w, hrest⟩ := delaySlot_of_restOk h hct
  unfold State.afterTransfer
  split
  · exact sequenceOk_of_block_nil hp' rfl rfl
  · refine (sequenceOk_of_latch_some (s := (s.writeLink op.link).enterDelaySlot _ _) hp' rfl).mpr ⟨rfl, w, ?_⟩
    simp [hb, hrest]

/-- Every way the step that executes an operation can end keeps the discipline of blocks. -/
theorem StepOf.sequenceOk {t : State} (hstep : StepOf (decodeIr e.word) s t) (hp : s.phase = .running)
    (hb : s.block = e :: rest) (h : s.sequenceOk) : t.sequenceOk := by
  cases hstep with
  | done hd ho => exact advance_sequenceOk ho hp hb ((isCT_eq_isControlFlow _).trans hd) h
  | exception c x => exact sequenceOk_of_block_nil hp rfl rfl
  | redirected _ => exact sequenceOk_of_block_nil (s.returnFromException_phase.trans hp) rfl rfl
  | fatal f p => exact sequenceOk_of_halted rfl
  | transfer op hd hl =>
    exact afterTransfer_sequenceOk op hp hl hb ((isCT_eq_isControlFlow _).trans (by rw [hd]; rfl)) h

end

theorem bootStage1_sequenceOk {s : State} (hp : s.phase = .reset) (h : s.sequenceOk) :
    (bootStage1 s).sequenceOk := by
  simp only [State.sequenceOk, hp] at h
  exact ⟨(State.writeX_block ..).trans h.1, (State.writeX_latch ..).trans h.2⟩

theorem bootStage2_sequenceOk {s : State} (hp : s.phase = .boot1Done) (h : s.sequenceOk) :
    (bootStage2 s).sequenceOk := by
  simp only [State.sequenceOk, hp] at h
  obtain ⟨hb, hl⟩ := h
  unfold bootStage2
  split
  · exact sequenceOk_of_halted rfl
  · exact sequenceOk_of_block_nil rfl hl hb

/-- The block that is formed starts at the program counter (40_pipeline.md R195). -/
theorem formBlock_sequenceOk {s : State} (hp : s.phase = .running) (hb : s.block = []) (h : s.sequenceOk) :
    (formBlock s).sequenceOk := by
  have hl : s.latch = none := by
    cases hl : s.latch with
    | none => rfl
    | some p =>
      obtain ⟨-, w, hslot⟩ := (sequenceOk_of_latch_some hp hl).mp h
      exact absurd (hb.symm.trans hslot) (List.cons_ne_nil _ _).symm
  obtain ⟨b, p, hform, hblock⟩ | ⟨f, p, hform⟩ := formBlock_cases s
  · rw [hform]
    exact (sequenceOk_of_latch_none (s := { s with pi := p, block := b }) hp hl).mpr (.inr hblock)
  · rw [hform]
    exact sequenceOk_of_halted rfl

/-- Settles O19, by the cases of a step: the control transfer and the delay slot are the last two entries of
a block, and the decoder calls a control transfer what the block finder does. -/
theorem stepKeepsBlockDiscipline : Obligations.StepKeepsBlockDiscipline := by
  intro s t h hstep
  cases step_cases hstep with
  | boot1 hp ht => exact ht ▸ bootStage1_sequenceOk hp h
  | boot2 hp ht => exact ht ▸ bootStage2_sequenceOk hp h
  | form hp hb ht => exact ht ▸ formBlock_sequenceOk hp hb h
  | exec _ _ hp hb hop => exact hop.sequenceOk hp hb h

end Sys2Proof.Machine

/-! # Which operation may write what (10_state.md R38, R39, R49 to R55, R59 to R62)

`writesMemory` and its companions read off an IR operation what executing it may write. One lemma per
contract of the engine says that it writes nothing else (`OnlyWrites`), and so does every step that raises
nothing (`StepWrites`). -/

namespace Sys2Proof.Machine

/-! ## What an IR operation may write -/

/-- The operation may write memory: a Store whose form is executed (41_load_store.md R221). -/
def writesMemory : Decoded → Bool
  | .op (.store op) => op.aligned && !op.conditional
  | _ => false

/-- The operation may write a floating-point register (10_state.md R51). -/
def writesFloat : Decoded → Bool
  | .op (.load op) => dataRegIsCop1 op.dest
  | .op (.move (.toCop _ (.f _))) => true
  | _ => false

/-- The destination is `HI` or `LO`. -/
def aluDestIsHiLo : AluDest → Bool
  | .g _ => false
  | .hi => true
  | .lo => true

/-- The operation may write `HI` or `LO` (10_state.md R38). -/
def writesHiLo : Decoded → Bool
  | .op (.mulDiv _) => true
  | .op (.alu op) => aluDestIsHiLo op.dest
  | _ => false

/-- The operation may write FCSR (45_move.md R423). -/
def writesFcsr : Decoded → Bool
  | .op (.move (.toCop _ (.fc i))) => i == 31
  | _ => false

/-- The operation may write a system-control register, exception entry apart (10_state.md R49). -/
def writesControl : Decoded → Bool
  | .op (.move (.toCop _ (.c0 _))) => true
  | .op (.system .eret) => true
  | _ => false

/-- Of memory, `HI` and `LO`, the floating-point and the control registers, `t` differs from `s` only in what
`d` may write. -/
structure OnlyWrites (d : Decoded) (s t : State) : Prop where
  mem : writesMemory d = false → t.mem = s.mem
  float : writesFloat d = false → t.f = s.f
  hiLo : writesHiLo d = false → t.hi = s.hi ∧ t.lo = s.lo
  fcsr : writesFcsr d = false → t.fcsr = s.fcsr
  control : writesControl d = false → t.c0 = s.c0
  fcr0 : t.fcr0 = s.fcr0

theorem OnlyWrites.trans {d : Decoded} {s t u : State} (h : OnlyWrites d s t) (h' : OnlyWrites d t u) :
    OnlyWrites d s u :=
  ⟨fun e => (h'.mem e).trans (h.mem e), fun e => (h'.float e).trans (h.float e),
    fun e => ⟨(h'.hiLo e).1.trans (h.hiLo e).1, (h'.hiLo e).2.trans (h.hiLo e).2⟩,
    fun e => (h'.fcsr e).trans (h.fcsr e), fun e => (h'.control e).trans (h.control e),
    h'.fcr0.trans h.fcr0⟩

/-- Moving the program counter on, leaving the block and halting write none of these parts. -/
theorem OnlyWrites.congr {d : Decoded} {s t u : State} (h : OnlyWrites d s t) (hm : u.mem = t.mem)
    (hf : u.f = t.f) (hhi : u.hi = t.hi) (hlo : u.lo = t.lo) (hcsr : u.fcsr = t.fcsr) (hc : u.c0 = t.c0)
    (h0 : u.fcr0 = t.fcr0) : OnlyWrites d s u :=
  h.trans ⟨fun _ => hm, fun _ => hf, fun _ => ⟨hhi, hlo⟩, fun _ => hcsr, fun _ => hc, h0⟩

theorem OnlyWrites.refl (d : Decoded) (s : State) : OnlyWrites d s s :=
  ⟨fun _ => rfl, fun _ => rfl, fun _ => ⟨rfl, rfl⟩, fun _ => rfl, fun _ => rfl, rfl⟩

section
variable (d : Decoded) (s : State)

/-- Every operation may change the collaborator. -/
theorem OnlyWrites.pi (p : Peripheral) : OnlyWrites d s { s with pi := p } :=
  (OnlyWrites.refl d s).congr rfl rfl rfl rfl rfl rfl rfl

/-- Every operation may write a general register. -/
theorem OnlyWrites.writeX (i : RegIdx) (v : Word) : OnlyWrites d s (s.writeX i v) :=
  (OnlyWrites.refl d s).congr (by simp) (by simp) (by simp) (by simp) (by simp) (by simp) (by simp)

end

/-! ## The contracts of the engine -/

/-- What the result of an operation has written. -/
inductive ResultWrites (d : Decoded) (s : State) : Result → Prop where
  | done {s'} : OnlyWrites d s s' → ResultWrites d s (.done s')
  | exception (c : BitVec 5) (e : BitVec 2) : ResultWrites d s (.exception (s.enterException c e))
  | redirected {s'} : OnlyWrites d s s' → ResultWrites d s (.redirected s')
  | fatal (f : Fatal) (p : Peripheral) : ResultWrites d s (.fatal f { s with pi := p })

theorem raise_writes (d : Decoded) (s : State) (k : ExcKind) (e : BitVec 2) :
    ResultWrites d s (raise k e s) :=
  .exception (excCode k) e

/-- A Load writes the register it names. -/
theorem writeData_writes (op : LoadOp) (s : State) (v : Word) :
    OnlyWrites (.op (.load op)) s (s.writeData op.dest op.width v) where
  mem _ := by simp
  float h := by
    have h : dataRegIsCop1 op.dest = false := h
    cases hd : op.dest with
    | g i => simp [State.writeData]
    | f i => simp [hd, dataRegIsCop1] at h
  hiLo _ := by simp
  fcsr _ := by simp
  control _ := by simp
  fcr0 := by simp

theorem runLoad_writes (op : LoadOp) (s : State) : ResultWrites (.op (.load op)) s (runLoad op s) := by
  unfold runLoad
  split
  · exact .fatal _ s.pi
  · split
    · exact .fatal _ s.pi
    · split
      · exact raise_writes _ _ _ _
      · split
        · rename_i b off _
          rcases memRead_cases (s.effAddr b off) (bytesOf op.width.bits) s with ⟨v, p, h⟩ | ⟨f, h⟩
          · rw [h]
            exact .done ((OnlyWrites.pi _ s p).trans (writeData_writes op _ v))
          · rw [h]
            exact .fatal f s.pi
        · exact .done (writeData_writes op s _)

/-- A Store writes memory, in a form that is executed. -/
theorem runStore_writes (op : StoreOp) (s : State) : ResultWrites (.op (.store op)) s (runStore op s) := by
  unfold runStore
  split
  · exact .fatal _ s.pi
  · rename_i ha
    split
    · exact .fatal _ s.pi
    · rename_i hc
      split
      · exact raise_writes _ _ _ _
      · have hn : bytesOf op.width.bits ≤ 8192 := by cases op.width.bits <;> decide
        have hplain : writesMemory (.op (.store op)) = true := by simpa [writesMemory] using And.intro ha hc
        rcases memWrite_cases (s.effAddr op.base op.offset) (bytesOf op.width.bits)
          (s.readData op.source) s hn with ⟨m, p, h, -⟩ | ⟨f, p, h⟩
        · rw [h]
          exact .done ⟨fun e => absurd (e.symm.trans hplain) Bool.false_ne_true, fun _ => rfl,
            fun _ => ⟨rfl, rfl⟩, fun _ => rfl, fun _ => rfl, rfl⟩
        · rw [h]
          exact .fatal f p

/-- An ALU operation writes the destination it names. -/
theorem writeAlu_writes (op : AluOp) (s : State) (v : Word) :
    OnlyWrites (.op (.alu op)) s (s.writeAlu op.dest v) where
  mem _ := by simp
  float _ := by simp
  hiLo h := by
    have h : aluDestIsHiLo op.dest = false := h
    cases hd : op.dest with
    | g i => simp [State.writeAlu]
    | hi => simp [hd, aluDestIsHiLo] at h
    | lo => simp [hd, aluDestIsHiLo] at h
  fcsr _ := by simp
  control _ := by simp
  fcr0 := by simp

theorem runAlu_writes (op : AluOp) (s : State) : ResultWrites (.op (.alu op)) s (runAlu op s) := by
  unfold runAlu
  split
  · exact .done (writeAlu_writes op s _)
  · exact raise_writes _ _ _ _

theorem runMulDiv_writes (op : MulDivOp) (s : State) :
    ResultWrites (.op (.mulDiv op)) s (runMulDiv op s) :=
  .done ⟨fun _ => rfl, fun _ => rfl, fun e => (by cases e), fun _ => rfl, fun _ => rfl, rfl⟩

/-- A move writes the coprocessor register it names; a control register of coprocessor 1 is FCSR where it
has number 31, and is not written where it has another (10_state.md R52, R53). -/
theorem writeCop_writes {s s' : State} {src : RegIdx} {r : CopReg} {v : Word} (h : s.writeCop r v = some s') :
    OnlyWrites (.op (.move (.toCop src r))) s s' := by
  cases r with
  | c0 i =>
    cases h
    exact ⟨fun _ => rfl, fun _ => rfl, fun _ => ⟨rfl, rfl⟩, fun _ => rfl, fun e => (by cases e), rfl⟩
  | f i =>
    cases h
    exact ⟨fun _ => rfl, fun e => (by cases e), fun _ => ⟨rfl, rfl⟩, fun _ => rfl, fun _ => rfl, rfl⟩
  | fc i =>
    simp only [State.writeCop, State.writeFcr] at h
    split at h
    · cases h
      exact OnlyWrites.refl _ s
    · split at h
      · rename_i h31
        cases h
        exact ⟨fun _ => rfl, fun _ => rfl, fun _ => ⟨rfl, rfl⟩, fun e => by simp [writesFcsr, h31] at e,
          fun _ => rfl, rfl⟩
      · cases h

theorem runMove_writes (op : MoveOp) (s : State) : ResultWrites (.op (.move op)) s (runMove op s) := by
  unfold runMove
  split
  · split
    · exact raise_writes _ _ _ _
    · split
      · exact .done (OnlyWrites.writeX _ s _ _)
      · exact .fatal _ s.pi
  · split
    · exact raise_writes _ _ _ _
    · split
      · rename_i h
        exact .done (writeCop_writes h)
      · exact .fatal _ s.pi

theorem runSystem_writes (op : SystemOp) (s : State) : ResultWrites (.op (.system op)) s (runSystem op s) := by
  cases op with
  | cache => exact .done (OnlyWrites.refl _ s)
  | syscall => exact raise_writes _ _ _ _
  | brk => exact raise_writes _ _ _ _
  | sync => exact .done (OnlyWrites.refl _ s)
  | trap c a b =>
    simp only [runSystem]
    split
    · exact raise_writes _ _ _ _
    · exact .done (OnlyWrites.refl _ s)
  | tlbr => exact .fatal _ s.pi
  | tlbwi => exact .fatal _ s.pi
  | tlbwr => exact .fatal _ s.pi
  | tlbp => exact .fatal _ s.pi
  | eret =>
    simp only [runSystem]
    split
    · exact .fatal _ s.pi
    · exact .redirected ⟨fun _ => s.returnFromException_mem, fun _ => s.returnFromException_f,
        fun _ => ⟨s.returnFromException_hi, s.returnFromException_lo⟩, fun _ => s.returnFromException_fcsr,
        fun e => (by cases e), s.returnFromException_fcr0⟩

/-- The step has written only what the operation may write, or has taken an exception. -/
theorem finish_writes {d : Decoded} {s t : State} {r : Result} (hr : ResultWrites d s r)
    (h : finish r = .next t) : OnlyWrites d s t ∨ ∃ c e, t = s.enterException c e := by
  cases hr with
  | done hw => cases h; exact .inl (hw.congr rfl rfl rfl rfl rfl rfl rfl)
  | exception c e => cases h; exact .inr ⟨c, e, rfl⟩
  | redirected hw => cases h; exact .inl (hw.congr rfl rfl rfl rfl rfl rfl rfl)
  | fatal f p => cases h; exact .inl ((OnlyWrites.refl d s).congr rfl rfl rfl rfl rfl rfl rfl)

/-- A control transfer writes its link register. -/
theorem runControlFlow_writes {op : CfOp} {s t : State} (d : Decoded) (h : runControlFlow op s = .next t) :
    OnlyWrites d s t ∨ ∃ c e, t = s.enterException c e := by
  unfold runControlFlow at h
  split at h
  · exact finish_writes (.fatal _ s.pi) h
  · split at h
    · exact finish_writes (raise_writes _ _ _ _) h
    · cases h
      exact .inl ((OnlyWrites.refl d s).congr (by simp) (by simp) (by simp) (by simp) (by simp) (by simp)
        (by simp))

theorem execIr_writes {d : Decoded} {s t : State} (h : execIr d s = .next t) :
    OnlyWrites d s t ∨ ∃ c e, t = s.enterException c e := by
  rcases d with o | cls
  · cases o with
    | load op => exact finish_writes (runLoad_writes op s) h
    | store op => exact finish_writes (runStore_writes op s) h
    | alu op => exact finish_writes (runAlu_writes op s) h
    | mulDiv op => exact finish_writes (runMulDiv_writes op s) h
    | controlFlow op => exact runControlFlow_writes _ h
    | move op => exact finish_writes (runMove_writes op s) h
    | system op => exact finish_writes (runSystem_writes op s) h
    | malformed => exact finish_writes (raise_writes _ s .ri 0#2) h
  · exact finish_writes (.fatal _ s.pi) h

/-! ## Every step -/

/-- The next step executes an instruction whose operation is one of `P`. -/
def Executes (s : State) (P : Decoded → Bool) : Prop := ∃ i, s.current = some i ∧ P i.ir = true

/-- What a step changed, it had the right to write. -/
structure StepWrites (s t : State) : Prop where
  mem : t.mem ≠ s.mem → s.phase = .boot1Done ∨ Executes s writesMemory
  float : t.f ≠ s.f → Executes s writesFloat
  hiLo : t.hi ≠ s.hi ∨ t.lo ≠ s.lo → Executes s writesHiLo
  fcsr : t.fcsr ≠ s.fcsr → Executes s writesFcsr
  control : t.c0 ≠ s.c0 → s.phase = .reset ∨ Executes s writesControl ∨ ∃ c e, t = s.enterException c e
  fcr0 : t.fcr0 = s.fcr0

/-- The instruction at the head of the block is the current one, where it may write something: a reserved
word may not. -/
theorem executes_of_head {s : State} {e : BlockEntry} {rest : List BlockEntry} (hp : s.phase = .running)
    (hb : s.block = e :: rest) {P : Decoded → Bool} (hm : P (.op .malformed) = false)
    (hP : P (decodeIr e.word) = true) : Executes s P := by
  have hcur : s.current = decodeWord e.word := by simp only [State.current, hp, hb]
  unfold decodeIr at hP
  split at hP
  · rename_i i hi
    exact ⟨i, hcur.trans hi, hP⟩
  · exact absurd (hm.symm.trans hP) Bool.false_ne_true

/-- A part of the state that changed, and that only the operations of `P` may write. -/
theorem executes_of_changed {s : State} {e : BlockEntry} {rest : List BlockEntry} (hp : s.phase = .running)
    (hb : s.block = e :: rest) {P : Decoded → Bool} (hm : P (.op .malformed) = false) {changed : Prop}
    (hc : changed) (h : P (decodeIr e.word) = false → ¬ changed) : Executes s P := by
  cases hP : P (decodeIr e.word) with
  | false => exact absurd hc (h hP)
  | true => exact executes_of_head hp hb hm hP

/-- The step that executes an operation. -/
theorem exec_stepWrites {s t : State} {e : BlockEntry} {rest : List BlockEntry} (hp : s.phase = .running)
    (hb : s.block = e :: rest) (h : step s = .next t) : StepWrites s t := by
  have hexec : execIr (decodeIr e.word) s = .next t := by
    rw [← execWord_eq_execIr, ← h]
    simp only [step, hp, hb]
  obtain hw | ⟨c, x, rfl⟩ := execIr_writes hexec
  · exact
      { mem := fun hne => .inr (executes_of_changed hp hb rfl hne fun hd => not_not_intro (hw.mem hd))
        float := fun hne => executes_of_changed hp hb rfl hne fun hd => not_not_intro (hw.float hd)
        hiLo := fun hne => executes_of_changed hp hb rfl hne fun hd => by simp [hw.hiLo hd]
        fcsr := fun hne => executes_of_changed hp hb rfl hne fun hd => not_not_intro (hw.fcsr hd)
        control := fun hne =>
          .inr (.inl (executes_of_changed hp hb rfl hne fun hd => not_not_intro (hw.control hd)))
        fcr0 := hw.fcr0 }
  · exact
      { mem := fun hne => absurd rfl hne
        float := fun hne => absurd rfl hne
        hiLo := fun hne => by simp at hne
        fcsr := fun hne => absurd rfl hne
        control := fun _ => .inr (.inr ⟨c, x, rfl⟩)
        fcr0 := rfl }

/-- A step that executes no operation leaves memory to boot stage two and the system-control registers to
boot stage one. -/
theorem stepWrites_of_kept {s t : State} (hm : t.mem ≠ s.mem → s.phase = .boot1Done) (hf : t.f = s.f)
    (hhi : t.hi = s.hi) (hlo : t.lo = s.lo) (hcsr : t.fcsr = s.fcsr) (hc : t.c0 ≠ s.c0 → s.phase = .reset)
    (h0 : t.fcr0 = s.fcr0) : StepWrites s t where
  mem hne := .inl (hm hne)
  float hne := absurd hf hne
  hiLo hne := absurd ⟨hhi, hlo⟩ (not_and_or.mpr hne)
  fcsr hne := absurd hcsr hne
  control hne := .inl (hc hne)
  fcr0 := h0

theorem bootStage1_stepWrites {s : State} (hp : s.phase = .reset) : StepWrites s (bootStage1 s) :=
  stepWrites_of_kept (absurd (State.writeX_mem ..)) (State.writeX_f ..) (State.writeX_hi ..)
    (State.writeX_lo ..) (State.writeX_fcsr ..) (fun _ => hp) (State.writeX_fcr0 ..)

theorem bootStage2_stepWrites {s : State} (hp : s.phase = .boot1Done) : StepWrites s (bootStage2 s) := by
  unfold bootStage2
  split
  · exact stepWrites_of_kept (fun _ => hp) rfl rfl rfl rfl (absurd rfl) rfl
  · exact stepWrites_of_kept (fun _ => hp) rfl rfl rfl rfl (absurd rfl) rfl

theorem formBlock_stepWrites (s : State) : StepWrites s (formBlock s) := by
  obtain ⟨b, p, hform, -⟩ | ⟨f, p, hform⟩ := formBlock_cases s
  · rw [hform]
    exact stepWrites_of_kept (absurd rfl) rfl rfl rfl rfl (absurd rfl) rfl
  · rw [hform]
    exact stepWrites_of_kept (absurd rfl) rfl rfl rfl rfl (absurd rfl) rfl

/-- Whatever a step changed, it had the right to write. -/
theorem step_writes {s t : State} (h : step s = .next t) : StepWrites s t := by
  cases step_cases h with
  | boot1 hp ht => exact ht ▸ bootStage1_stepWrites hp
  | boot2 hp ht => exact ht ▸ bootStage2_stepWrites hp
  | form _ _ ht => exact ht ▸ formBlock_stepWrites s
  | exec _ _ hp hb _ => exact exec_stepWrites hp hb h

/-! ## The instructions behind the operations -/

theorem writesMemory_ir {i : Instr} (h : writesMemory i.ir = true) :
    ∃ (base rt : RegIdx) (offset : BitVec 16), i = .sb base rt offset ∨ i = .sh base rt offset
      ∨ i = .sw base rt offset ∨ i = .sd base rt offset ∨ i = .swc1 base rt offset
      ∨ i = .sdc1 base rt offset := by
  match i, h with
  | .sb b r o, _ => exact ⟨b, r, o, by simp⟩
  | .sh b r o, _ => exact ⟨b, r, o, by simp⟩
  | .sw b r o, _ => exact ⟨b, r, o, by simp⟩
  | .sd b r o, _ => exact ⟨b, r, o, by simp⟩
  | .swc1 b r o, _ => exact ⟨b, r, o, by simp⟩
  | .sdc1 b r o, _ => exact ⟨b, r, o, by simp⟩

theorem writesFloat_ir {i : Instr} (h : writesFloat i.ir = true) :
    ∃ (a b : RegIdx) (imm : BitVec 16), i = .lwc1 a b imm ∨ i = .ldc1 a b imm ∨ i = .mtc1 a b
      ∨ i = .dmtc1 a b := by
  match i, h with
  | .lwc1 a b o, _ => exact ⟨a, b, o, by simp⟩
  | .ldc1 a b o, _ => exact ⟨a, b, o, by simp⟩
  | .mtc1 a b, _ => exact ⟨a, b, 0#16, by simp⟩
  | .dmtc1 a b, _ => exact ⟨a, b, 0#16, by simp⟩

theorem writesHiLo_ir {i : Instr} (h : writesHiLo i.ir = true) :
    ∃ a b : RegIdx, i = .mult a b ∨ i = .multu a b ∨ i = .div a b ∨ i = .divu a b ∨ i = .dmult a b
      ∨ i = .dmultu a b ∨ i = .ddiv a b ∨ i = .ddivu a b ∨ i = .mthi a ∨ i = .mtlo a := by
  match i, h with
  | .mult a b, _ => exact ⟨a, b, by simp⟩
  | .multu a b, _ => exact ⟨a, b, by simp⟩
  | .div a b, _ => exact ⟨a, b, by simp⟩
  | .divu a b, _ => exact ⟨a, b, by simp⟩
  | .dmult a b, _ => exact ⟨a, b, by simp⟩
  | .dmultu a b, _ => exact ⟨a, b, by simp⟩
  | .ddiv a b, _ => exact ⟨a, b, by simp⟩
  | .ddivu a b, _ => exact ⟨a, b, by simp⟩
  | .mthi a, _ => exact ⟨a, 0, by simp⟩
  | .mtlo a, _ => exact ⟨a, 0, by simp⟩

theorem writesFcsr_ir {i : Instr} (h : writesFcsr i.ir = true) : ∃ rt : RegIdx, i = .ctc1 rt 31 := by
  match i, h with
  | .ctc1 rt fs, h31 =>
    have hfs : fs = 31 := by simpa [Instr.ir, writesFcsr] using h31
    exact ⟨rt, by rw [hfs]⟩

theorem writesControl_ir {i : Instr} (h : writesControl i.ir = true) :
    i = .eret ∨ ∃ a b : RegIdx, i = .mtc0 a b ∨ i = .dmtc0 a b := by
  match i, h with
  | .eret, _ => exact .inl rfl
  | .mtc0 a b, _ => exact .inr ⟨a, b, .inl rfl⟩
  | .dmtc0 a b, _ => exact .inr ⟨a, b, .inr rfl⟩

/-! ## The whole-machine rules -/

/-- Settles O26: a step that changed memory is boot stage two, or executes an operation that writes memory,
which only the plain stores are. -/
theorem onlyStoresWriteMemory : Obligations.OnlyStoresWriteMemory := by
  intro s t hstep hne
  obtain hboot | ⟨i, hi, hw⟩ := (step_writes hstep).mem hne
  · exact .inl hboot
  · obtain ⟨base, rt, offset, h⟩ := writesMemory_ir hw
    exact .inr ⟨base, rt, offset, by simpa only [hi, Option.some.injEq] using h⟩

/-- Settles O27, register by register: a step that changed it executes an operation that may write it, or
is boot stage one or exception entry. -/
theorem whoWritesRegisters : Obligations.WhoWritesRegisters := by
  intro s t hstep
  have hw := step_writes hstep
  refine ⟨fun hne => ?_, fun hne => ?_, fun hne => ?_, fun hne => ?_⟩
  · obtain ⟨i, hi, hi'⟩ := hw.fcsr hne
    obtain ⟨rt, rfl⟩ := writesFcsr_ir hi'
    exact ⟨rt, hi⟩
  · obtain ⟨i, hi, hi'⟩ := hw.float hne
    obtain ⟨a, b, imm, h⟩ := writesFloat_ir hi'
    exact ⟨a, b, imm, by simpa only [hi, Option.some.injEq] using h⟩
  · obtain ⟨i, hi, hi'⟩ := hw.hiLo hne
    obtain ⟨a, b, h⟩ := writesHiLo_ir hi'
    exact ⟨a, b, by simpa only [hi, Option.some.injEq] using h⟩
  · obtain hreset | ⟨i, hi, hi'⟩ | hexc := hw.control hne
    · exact .inl hreset
    · obtain rfl | ⟨a, b, h⟩ := writesControl_ir hi'
      · exact .inr (.inl hi)
      · exact .inr (.inr (.inl ⟨a, b, by simpa only [hi, Option.some.injEq] using h⟩))
    · exact .inr (.inr (.inr hexc))

/-! ## What stays the same in every run (R39, R52, R62) -/

/-- What a step leaves of the load-linked flag, the cartridge and the parameters. -/
structure StepKeeps (s t : State) : Prop where
  llbit : s.llbitOk → t.llbitOk
  cart : t.cart = s.cart
  cfg : t.cfg = s.cfg

theorem StepKeeps.of_eq {s t : State} (hl : t.llbit = s.llbit) (hc : t.cart = s.cart) (hp : t.cfg = s.cfg) :
    StepKeeps s t :=
  ⟨fun h => hl.trans h, hc, hp⟩

/-- `ERET` clears the load-linked flag (46_system.md R454). -/
theorem State.returnFromException_llbit (s : State) : s.returnFromException.llbit = false := by
  unfold State.returnFromException
  split <;> rfl

theorem StepOf.keeps {d : Decoded} {s t : State} (hstep : StepOf d s t) : StepKeeps s t := by
  cases hstep with
  | done _ ho => exact .of_eq ho.llbit ho.cart ho.cfg
  | exception c e => exact .of_eq rfl rfl rfl
  | redirected _ => exact ⟨fun _ => s.returnFromException_llbit, s.returnFromException_cart,
      s.returnFromException_cfg⟩
  | fatal f p => exact .of_eq rfl rfl rfl
  | transfer op _ _ => exact .of_eq (by simp) (by simp) (by simp)

theorem bootStage1_keeps (s : State) : StepKeeps s (bootStage1 s) :=
  .of_eq (State.writeX_llbit ..) (State.writeX_cart ..) (State.writeX_cfg ..)

theorem bootStage2_keeps (s : State) : StepKeeps s (bootStage2 s) := by
  unfold bootStage2
  split
  · exact .of_eq rfl rfl rfl
  · exact .of_eq rfl rfl rfl

theorem formBlock_keeps (s : State) : StepKeeps s (formBlock s) := by
  obtain ⟨b, p, hform, -⟩ | ⟨f, p, hform⟩ := formBlock_cases s
  · exact hform ▸ .of_eq rfl rfl rfl
  · exact hform ▸ .of_eq rfl rfl rfl

theorem step_keeps {s t : State} (h : step s = .next t) : StepKeeps s t := by
  cases step_cases h with
  | boot1 _ ht => exact ht ▸ bootStage1_keeps s
  | boot2 _ ht => exact ht ▸ bootStage2_keeps s
  | form _ _ ht => exact ht ▸ formBlock_keeps s
  | exec _ _ _ _ hop => exact hop.keeps

/-- Settles O21: the load-linked flag is only ever cleared, and no operation writes the rest. -/
theorem stepKeepsFixedState : Obligations.StepKeepsFixedState := by
  intro s t hstep
  have hkeeps := step_keeps hstep
  exact ⟨hkeeps.llbit, hkeeps.cart, (step_writes hstep).fcr0, hkeeps.cfg⟩

end Sys2Proof.Machine

/-! # Register 0 (10_state.md R31)

What slot 0 of the general-register storage holds influences no step: every operation of the model commutes
with replacing it (`setSlotZero`). That no step changes the slot follows, since a step from the state in
which it is replaced by itself is the same step. -/

namespace Sys2Proof.Machine

/-- The state with slot 0 of the storage of the general registers replaced. -/
def State.setSlotZero (s : State) (v : Word) : State := { s with x := s.x.set 0 v }

/-- The state of an access, replaced. -/
def Access.mapState {α : Type} (g : State → State) : Access α → Access α
  | .ok a s => .ok a (g s)
  | .fatal f s => .fatal f (g s)

/-- The state of a result, replaced. -/
def Result.mapState (g : State → State) : Result → Result
  | .done s => .done (g s)
  | .exception s => .exception (g s)
  | .redirected s => .redirected (g s)
  | .fatal f s => .fatal f (g s)

/-- The next state of an outcome, replaced. -/
def mapNext (g : State → State) : Host.Outcome State Fault Refusal → Host.Outcome State Fault Refusal
  | .next s => .next (g s)
  | .fault f => .fault f
  | .refused r => .refused r

section
variable (s : State) (v : Word)

/-! ## Reads and writes of registers -/

@[simp] theorem setSlotZero_pc : (s.setSlotZero v).pc = s.pc := rfl
@[simp] theorem setSlotZero_block : (s.setSlotZero v).block = s.block := rfl
@[simp] theorem setSlotZero_latch : (s.setSlotZero v).latch = s.latch := rfl
@[simp] theorem setSlotZero_phase : (s.setSlotZero v).phase = s.phase := rfl
@[simp] theorem setSlotZero_cart : (s.setSlotZero v).cart = s.cart := rfl
@[simp] theorem setSlotZero_cfg : (s.setSlotZero v).cfg = s.cfg := rfl
@[simp] theorem setSlotZero_cu1 : (s.setSlotZero v).cu1 = s.cu1 := rfl
@[simp] theorem setSlotZero_erl : (s.setSlotZero v).erl = s.erl := rfl

/-- No read sees the slot. -/
@[simp] theorem readX_setSlotZero (i : RegIdx) : (s.setSlotZero v).readX i = s.readX i := by
  unfold State.readX
  split
  · rfl
  · rename_i hi
    have : (0 : Nat) ≠ i := fun e => hi (Fin.ext e.symm)
    simp [State.setSlotZero, this]

/-- No write reaches the slot. -/
@[simp] theorem writeX_setSlotZero (i : RegIdx) (w : Word) :
    (s.setSlotZero v).writeX i w = (s.writeX i w).setSlotZero v := by
  unfold State.writeX
  split
  · rfl
  · rename_i hi
    have : (0 : Nat) ≠ i := fun e => hi (Fin.ext e.symm)
    simp only [State.setSlotZero]
    rw [Vector.set_comm _ _ this]

@[simp] theorem operand_setSlotZero (o : Opnd) : (s.setSlotZero v).operand o = s.operand o := by
  cases o with
  | reg i => exact readX_setSlotZero s v i
  | hi => rfl
  | lo => rfl
  | imm w => rfl
  | sa n => rfl

@[simp] theorem optionalOperand_setSlotZero (o : Option Opnd) :
    (s.setSlotZero v).optionalOperand o = s.optionalOperand o := by
  cases o with
  | none => rfl
  | some o => exact operand_setSlotZero s v o

@[simp] theorem readData_setSlotZero (d : DataReg) : (s.setSlotZero v).readData d = s.readData d := by
  cases d with
  | g i => exact readX_setSlotZero s v i
  | f i => rfl

@[simp] theorem readCop_setSlotZero (r : CopReg) : (s.setSlotZero v).readCop r = s.readCop r := by
  cases r <;> rfl

@[simp] theorem effAddr_setSlotZero (b : RegIdx) (off : Word) :
    (s.setSlotZero v).effAddr b off = s.effAddr b off := by
  simp [State.effAddr]

@[simp] theorem holds_setSlotZero (c : Cond) : (s.setSlotZero v).holds c = s.holds c := by
  cases c with
  | always => rfl
  | copTrue => rfl
  | copFalse => rfl
  | _ => simp only [State.holds, readX_setSlotZero]

@[simp] theorem target_setSlotZero (t : Target) : (s.setSlotZero v).target t = s.target t := by
  cases t <;> simp [State.target]

@[simp] theorem writeData_setSlotZero (d : DataReg) (w : Width) (u : Word) :
    (s.setSlotZero v).writeData d w u = (s.writeData d w u).setSlotZero v := by
  cases d with
  | g i => exact writeX_setSlotZero s v i _
  | f i =>
    obtain ⟨b, e⟩ := w
    cases b <;> rfl

@[simp] theorem writeAlu_setSlotZero (d : AluDest) (u : Word) :
    (s.setSlotZero v).writeAlu d u = (s.writeAlu d u).setSlotZero v := by
  cases d with
  | g i => exact writeX_setSlotZero s v i u
  | hi => rfl
  | lo => rfl

@[simp] theorem writeCop_setSlotZero (r : CopReg) (u : Word) :
    (s.setSlotZero v).writeCop r u = (s.writeCop r u).map (·.setSlotZero v) := by
  cases r with
  | c0 i => rfl
  | f i => rfl
  | fc i =>
    simp only [State.writeCop, State.writeFcr]
    split
    · rfl
    · split <;> rfl

@[simp] theorem writeLink_setSlotZero (l : Option RegIdx) :
    (s.setSlotZero v).writeLink l = (s.writeLink l).setSlotZero v := by
  cases l with
  | none => rfl
  | some i => exact writeX_setSlotZero s v i _

@[simp] theorem returnFromException_setSlotZero :
    (s.setSlotZero v).returnFromException = s.returnFromException.setSlotZero v := by
  unfold State.returnFromException
  rw [setSlotZero_erl]
  split <;> rfl

/-! ## The memory router -/

theorem physRead_setSlotZero (pa n : Nat) :
    physRead pa n (s.setSlotZero v) = (physRead pa n s).mapState (·.setSlotZero v) := by
  unfold physRead
  rw [setSlotZero_cfg]
  split <;> rfl

theorem physWrite_setSlotZero (pa : Nat) (bs : List Byte) :
    physWrite pa bs (s.setSlotZero v) = (physWrite pa bs s).mapState (·.setSlotZero v) := by
  unfold physWrite
  rw [setSlotZero_cfg]
  split <;> rfl

theorem runDma_setSlotZero (d : DmaDescriptor) :
    runDma d (s.setSlotZero v) = (runDma d s).mapState (·.setSlotZero v) := by
  unfold runDma
  rw [setSlotZero_cfg, setSlotZero_cart]
  split
  · split
    · rfl
    · split <;> rfl
  · split
    · split <;> rfl
    · rfl

theorem routerRead_setSlotZero (va : EffAddr) (n : Nat) :
    routerRead va n (s.setSlotZero v) = (routerRead va n s).mapState (·.setSlotZero v) := by
  unfold routerRead
  rw [setSlotZero_cfg]
  split
  · exact physRead_setSlotZero s v _ n
  · rfl

theorem routerWrite_setSlotZero (va : EffAddr) (bs : List Byte) :
    routerWrite va bs (s.setSlotZero v) = (routerWrite va bs s).mapState (·.setSlotZero v) := by
  unfold routerWrite
  rw [setSlotZero_cfg]
  split
  · rfl
  · rename_i pa _
    rw [physWrite_setSlotZero]
    cases physWrite pa bs s with
    | fatal f s' => rfl
    | ok d s' =>
      cases d with
      | none => rfl
      | some d => exact runDma_setSlotZero s' v d

theorem fetch_setSlotZero (a : EffAddr) :
    fetch a (s.setSlotZero v) = (fetch a s).mapState (·.setSlotZero v) := by
  unfold fetch
  rw [routerRead_setSlotZero]
  split
  · rfl
  · cases routerRead a 4 s <;> rfl

theorem memRead_setSlotZero (a : EffAddr) (n : Nat) :
    memRead a n (s.setSlotZero v) = (memRead a n s).mapState (·.setSlotZero v) := by
  unfold memRead
  rw [routerRead_setSlotZero]
  split
  · rfl
  · cases routerRead a n s <;> rfl

theorem memWrite_setSlotZero (a : EffAddr) (n : Nat) (u : Word) :
    memWrite a n u (s.setSlotZero v) = (memWrite a n u s).mapState (·.setSlotZero v) := by
  unfold memWrite
  rw [routerWrite_setSlotZero]
  split <;> rfl

/-! ## The contracts of the engine -/

theorem runLoad_setSlotZero (op : LoadOp) :
    runLoad op (s.setSlotZero v) = (runLoad op s).mapState (·.setSlotZero v) := by
  unfold runLoad
  rw [setSlotZero_cu1]
  split
  · rfl
  · split
    · rfl
    · split
      · rfl
      · split
        · rename_i b off _
          rw [effAddr_setSlotZero, memRead_setSlotZero]
          cases memRead (s.effAddr b off) (bytesOf op.width.bits) s with
          | ok u s' => exact congrArg Result.done (writeData_setSlotZero s' v op.dest op.width u)
          | fatal f s' => rfl
        · exact congrArg Result.done (writeData_setSlotZero s v op.dest op.width _)

theorem runStore_setSlotZero (op : StoreOp) :
    runStore op (s.setSlotZero v) = (runStore op s).mapState (·.setSlotZero v) := by
  unfold runStore
  rw [setSlotZero_cu1]
  split
  · rfl
  · split
    · rfl
    · split
      · rfl
      · rw [effAddr_setSlotZero, readData_setSlotZero, memWrite_setSlotZero]
        cases memWrite (s.effAddr op.base op.offset) (bytesOf op.width.bits) (s.readData op.source) s <;> rfl

theorem runAlu_setSlotZero (op : AluOp) :
    runAlu op (s.setSlotZero v) = (runAlu op s).mapState (·.setSlotZero v) := by
  unfold runAlu
  rw [optionalOperand_setSlotZero, operand_setSlotZero]
  split
  · exact congrArg Result.done (writeAlu_setSlotZero s v op.dest _)
  · rfl

theorem runMulDiv_setSlotZero (op : MulDivOp) :
    runMulDiv op (s.setSlotZero v) = (runMulDiv op s).mapState (·.setSlotZero v) := by
  unfold runMulDiv
  rw [operand_setSlotZero, operand_setSlotZero]
  rfl

theorem runMove_setSlotZero (op : MoveOp) :
    runMove op (s.setSlotZero v) = (runMove op s).mapState (·.setSlotZero v) := by
  unfold runMove
  split
  · rename_i src dest
    rw [setSlotZero_cu1, readCop_setSlotZero]
    split
    · rfl
    · cases s.readCop src with
      | none => rfl
      | some u => exact congrArg Result.done (writeX_setSlotZero s v dest u)
  · rename_i src dest
    rw [setSlotZero_cu1, readX_setSlotZero, writeCop_setSlotZero]
    split
    · rfl
    · cases s.writeCop dest (s.readX src) <;> rfl

theorem runSystem_setSlotZero (op : SystemOp) :
    runSystem op (s.setSlotZero v) = (runSystem op s).mapState (·.setSlotZero v) := by
  cases op with
  | trap c a b =>
    simp only [runSystem, readX_setSlotZero, operand_setSlotZero]
    split <;> rfl
  | eret =>
    simp only [runSystem, setSlotZero_latch, returnFromException_setSlotZero]
    split <;> rfl
  | _ => rfl

theorem finish_mapState (r : Result) :
    finish (r.mapState (·.setSlotZero v)) = mapNext (·.setSlotZero v) (finish r) := by
  cases r <;> rfl

theorem afterTransfer_setSlotZero (op : CfOp) :
    (s.setSlotZero v).afterTransfer op = (s.afterTransfer op).setSlotZero v := by
  unfold State.afterTransfer
  rw [holds_setSlotZero, target_setSlotZero, writeLink_setSlotZero]
  split <;> rfl

theorem runControlFlow_setSlotZero (op : CfOp) :
    runControlFlow op (s.setSlotZero v) = mapNext (·.setSlotZero v) (runControlFlow op s) := by
  unfold runControlFlow
  rw [setSlotZero_latch, setSlotZero_cu1, afterTransfer_setSlotZero]
  split
  · rfl
  · split <;> rfl

theorem execIr_setSlotZero (d : Decoded) :
    execIr d (s.setSlotZero v) = mapNext (·.setSlotZero v) (execIr d s) := by
  have done : ∀ r r' : Result, r' = r.mapState (·.setSlotZero v) →
      finish r' = mapNext (·.setSlotZero v) (finish r) :=
    fun r _ h => h ▸ finish_mapState v r
  rcases d with o | cls
  · cases o with
    | load op => exact done _ _ (runLoad_setSlotZero s v op)
    | store op => exact done _ _ (runStore_setSlotZero s v op)
    | alu op => exact done _ _ (runAlu_setSlotZero s v op)
    | mulDiv op => exact done _ _ (runMulDiv_setSlotZero s v op)
    | controlFlow op => exact runControlFlow_setSlotZero s v op
    | move op => exact done _ _ (runMove_setSlotZero s v op)
    | system op => exact done _ _ (runSystem_setSlotZero s v op)
    | malformed => rfl
  · rfl

/-! ## Boot and the formation of a block -/

theorem bootStage1_setSlotZero : bootStage1 (s.setSlotZero v) = (bootStage1 s).setSlotZero v :=
  congrArg (fun u : State => { u with phase := .boot1Done })
    (writeX_setSlotZero ((s.writeC0 12 s.cfg.bootStatus).writeC0 16 s.cfg.bootConfig) v 29 s.cfg.bootSp)

theorem bootStage2_setSlotZero : bootStage2 (s.setSlotZero v) = (bootStage2 s).setSlotZero v := by
  unfold bootStage2
  rw [setSlotZero_cart]
  split <;> rfl

end

theorem scanBlock_setSlotZero (start : Word) (n : Nat) (a : Word) (s : State) (v : Word) :
    scanBlock start n a (s.setSlotZero v) = (scanBlock start n a s).mapState (·.setSlotZero v) := by
  induction n generalizing a s with
  | zero => rfl
  | succ n ih =>
    unfold scanBlock
    rw [fetch_setSlotZero]
    cases fetch a s with
    | fatal f s' => rfl
    | ok w s' =>
      simp only [Access.mapState, setSlotZero_cfg]
      split
      · rw [fetch_setSlotZero]
        cases fetch (toPc s.cfg (a + 4#64)) s' <;> rfl
      · rw [ih]
        cases scanBlock start n (toPc s.cfg (a + 4#64)) s' <;> rfl

theorem formBlock_setSlotZero (s : State) (v : Word) :
    formBlock (s.setSlotZero v) = (formBlock s).setSlotZero v := by
  unfold formBlock findBlock
  rw [scanBlock_setSlotZero, setSlotZero_pc, setSlotZero_cfg]
  cases scanBlock s.pc s.cfg.blockScanLimit s.pc s <;> rfl

/-! ## Every step -/

theorem step_setSlotZero (s : State) (v : Word) :
    step (s.setSlotZero v) = mapNext (·.setSlotZero v) (step s) := by
  unfold step
  rw [setSlotZero_phase, setSlotZero_block]
  split
  · exact congrArg Host.Outcome.next (bootStage1_setSlotZero s v)
  · exact congrArg Host.Outcome.next (bootStage2_setSlotZero s v)
  · split
    · exact congrArg Host.Outcome.next (formBlock_setSlotZero s v)
    · rw [execWord_eq_execIr, execWord_eq_execIr]
      exact execIr_setSlotZero s v _
  · rfl
  · rfl

/-- A slot that is replaced by itself. -/
theorem setSlotZero_self (s : State) : s.setSlotZero s.x[0] = s := by
  simp [State.setSlotZero]

/-- A step from the state with the slot replaced by itself is the same step, and leaves the slot so. -/
theorem step_slotZero {s t : State} (h : step s = .next t) : t.x[0] = s.x[0] := by
  have hmap := step_setSlotZero s s.x[0]
  rw [setSlotZero_self, h] at hmap
  have ht : t = t.setSlotZero s.x[0] := Host.Outcome.next.inj hmap
  rw [ht]
  simp [State.setSlotZero]

/-- Settles O25: no read sees the slot and no write reaches it, so every step commutes with replacing it. -/
theorem registerZero : Obligations.RegisterZero := by
  refine ⟨State.readX_zero, fun _ _ => rfl, fun s t => step_slotZero, fun s v => ?_⟩
  refine (step_setSlotZero s v).trans ?_
  cases step s <;> rfl

end Sys2Proof.Machine

/-! # The state after reset and after boot, and the system-control registers (10_state.md R40 to R48, R71,
R72) -/

namespace Sys2Proof.Machine

/-! ## The write masks and the coprocessor-0 moves -/

/-- Settles O56, by the table of `writeMask`. -/
theorem writeMasks : Obligations.WriteMasks := by
  refine ⟨?_, ?_, ?_, rfl, rfl, rfl, rfl, rfl⟩
  · decide
  · decide
  · decide

/-- A write through the mask changes the writable bits the slot has, and no other. -/
theorem State.getLsbD_writeC0_self (s : State) (i : RegIdx) (v : Word) (k : Nat) :
    ((s.writeC0 i v).readC0 i).getLsbD k
      = if k < s.cfg.cp0Width.bits ∧ (writeMask i).getLsbD k = true then v.getLsbD k
        else (s.readC0 i).getLsbD k := by
  rw [State.readC0_writeC0_self, getLsbD_mergeBits]
  simp [slotMask, and_comm]

/-- A move to a system-control register is done and writes its slot through the mask. -/
theorem completes_writeC0 {i : Instr} {s : State} {rd : RegIdx} {v : Word}
    (h : exec i s = .next (s.writeC0 rd v).advance) :
    Completes i s { c0 := [rd] } (fun t => ∀ k, (t.readC0 rd).getLsbD k
        = if k < s.cfg.cp0Width.bits ∧ (writeMask rd).getLsbD k = true then v.getLsbD k
          else (s.readC0 rd).getLsbD k) := by
  refine completes_of h rfl rfl rfl ⟨fun _ _ => rfl, fun _ _ => rfl, fun i hi => ?_, fun _ => rfl, fun _ => rfl,
    fun _ => rfl, fun _ => rfl, fun _ _ => rfl, fun _ => rfl, rfl, rfl, rfl, rfl⟩
    (s.getLsbD_writeC0_self rd v)
  exact State.readC0_writeC0_ne s v (by simpa using hi)

/-- Settles O55: a read gives the slot in its width, a write goes through the mask. -/
theorem cop0Moves : Obligations.Cop0Moves := fun _ _ _ =>
  ⟨completesWriting_of rfl, completesWriting_of rfl, completes_writeC0 rfl, completes_writeC0 rfl⟩

/-! ## After reset (R71, R510) -/

/-- The state after reset of R71 is that of a reset with nothing attached, under the defaults. -/
theorem reset_eq_hostReset : State.reset = hostReset [] (.oracle 0) Params.defaults := rfl

section
variable (cart : List Byte) (pi : Peripheral) (cfg : Params)

/-- The system-control registers after reset: PRId, the constant bits of Config, and 0. -/
theorem hostReset_readC0 (i : RegIdx) :
    (hostReset cart pi cfg).readC0 i
      = if i = 15 then cfg.prid else if i = 16 then Config.configConstant else 0#64 := by
  by_cases h15 : i = 15
  · subst h15
    rfl
  · by_cases h16 : i = 16
    · subst h16
      rfl
    · have hne15 : (15 : Nat) ≠ i := fun e => h15 (Fin.ext e.symm)
      have hne16 : (16 : Nat) ≠ i := fun e => h16 (Fin.ext e.symm)
      simp [State.readC0, hostReset, h15, h16, hne15, hne16]

theorem hostReset_readX (i : RegIdx) : (hostReset cart pi cfg).readX i = 0#64 := by
  simp [State.readX, hostReset, State.reset]

theorem hostReset_readF (i : RegIdx) : (hostReset cart pi cfg).readF i = 0#64 := by
  simp [State.readF, hostReset, State.reset]

theorem hostReset_memoryOk : (hostReset cart pi cfg).memoryOk :=
  ⟨initMemory_wf cfg, initMemory_exists cfg⟩

/-- Every bit of PRId is reserved, and of Config those outside its mask, which hold the constant bits. -/
theorem hostReset_controlOk : (hostReset cart pi cfg).controlOk := by
  refine ⟨fun i => ?_, rfl, BitVec.zero_and⟩
  refine (congrArg (· &&& reservedBits cfg i) (hostReset_readC0 cart pi cfg i)).trans ?_
  show _ = constantPattern cfg i
  by_cases h15 : i = 15
  · subst h15
    have hreserved : reservedBits cfg 15 = ~~~0#64 := congrArg (~~~ ·) BitVec.zero_and
    rw [hreserved, if_pos rfl]
    exact BitVec.and_allOnes
  · by_cases h16 : i = 16
    · subst h16
      have hreserved : reservedBits cfg 16 = ~~~0x0F00800F#64 := congrArg (~~~ ·) (slotMask_config cfg)
      rw [hreserved, if_neg h15, if_pos rfl]
      show Config.configConstant &&& ~~~0x0F00800F#64 = Config.configConstant
      decide
    · have hzero : constantPattern cfg i = 0#64 := by
        unfold constantPattern
        split
        · exact absurd (Fin.ext ‹_›) h15
        · exact absurd (Fin.ext ‹_›) h16
        · rfl
      simp [h15, h16, hzero]

theorem hostReset_widthsOk : (hostReset cart pi cfg).widthsOk := by
  refine ⟨fitWidth_zero _, fun i => ?_⟩
  rw [hostReset_readF]
  exact fitWidth_zero _

/-- Every invariant of the model holds after reset. -/
theorem hostReset_invariants :
    (hostReset cart pi cfg).memoryOk ∧ (hostReset cart pi cfg).controlOk ∧ (hostReset cart pi cfg).llbitOk
      ∧ (hostReset cart pi cfg).sequenceOk ∧ (hostReset cart pi cfg).widthsOk :=
  ⟨hostReset_memoryOk cart pi cfg, hostReset_controlOk cart pi cfg, rfl, ⟨rfl, rfl⟩,
    hostReset_widthsOk cart pi cfg⟩

end

/-- Settles O23: `State.reset` is a reset by the host too. -/
theorem resetMeetsInvariants : Obligations.ResetMeetsInvariants := by
  intro cart pi cfg
  obtain ⟨hm, hc, hl, hs, hw⟩ := hostReset_invariants [] (.oracle 0) Params.defaults
  exact ⟨hm, hc, hl, hs, hw, hostReset_invariants cart pi cfg⟩

/-- Settles O22, field by field; the bytes of memory are those of `initMemory`. -/
theorem resetState : Obligations.ResetState := by
  refine ⟨⟨fun i => hostReset_readX [] (.oracle 0) Params.defaults i, rfl, rfl, rfl, rfl,
    fun i => hostReset_readF [] (.oracle 0) Params.defaults i, rfl, rfl,
    fun i => hostReset_readC0 [] (.oracle 0) Params.defaults i, fun _ => rfl, fun _ => rfl, fun _ => rfl,
    rfl, rfl, rfl, reset_eq_hostReset⟩, fun cart pi cfg => ?_⟩
  exact ⟨hostReset cart pi cfg, rfl, rfl, rfl, hostReset_readC0 cart pi cfg, fun i hi => initMemory_ram hi,
    fun i hi => initMemory_dmem hi, fun i hi => initMemory_imem hi⟩

/-! ## The boot stages (70_reset_and_hazards.md R512, R513) -/

section
variable (s : State)

@[simp] theorem bootStage1_hi : (bootStage1 s).hi = s.hi := State.writeX_hi ..
@[simp] theorem bootStage1_lo : (bootStage1 s).lo = s.lo := State.writeX_lo ..
@[simp] theorem bootStage1_llbit : (bootStage1 s).llbit = s.llbit := State.writeX_llbit ..
@[simp] theorem bootStage1_f : (bootStage1 s).f = s.f := State.writeX_f ..
@[simp] theorem bootStage1_fcr0 : (bootStage1 s).fcr0 = s.fcr0 := State.writeX_fcr0 ..
@[simp] theorem bootStage1_fcsr : (bootStage1 s).fcsr = s.fcsr := State.writeX_fcsr ..
@[simp] theorem bootStage1_mem : (bootStage1 s).mem = s.mem := State.writeX_mem ..
@[simp] theorem bootStage1_cart : (bootStage1 s).cart = s.cart := State.writeX_cart ..
@[simp] theorem bootStage1_pi : (bootStage1 s).pi = s.pi := State.writeX_pi ..
@[simp] theorem bootStage1_block : (bootStage1 s).block = s.block := State.writeX_block ..
@[simp] theorem bootStage1_latch : (bootStage1 s).latch = s.latch := State.writeX_latch ..
@[simp] theorem bootStage1_cfg : (bootStage1 s).cfg = s.cfg := State.writeX_cfg ..

@[simp] theorem bootStage2_x : (bootStage2 s).x = s.x := by unfold bootStage2; split <;> rfl
@[simp] theorem bootStage2_hi : (bootStage2 s).hi = s.hi := by unfold bootStage2; split <;> rfl
@[simp] theorem bootStage2_lo : (bootStage2 s).lo = s.lo := by unfold bootStage2; split <;> rfl
@[simp] theorem bootStage2_llbit : (bootStage2 s).llbit = s.llbit := by unfold bootStage2; split <;> rfl
@[simp] theorem bootStage2_f : (bootStage2 s).f = s.f := by unfold bootStage2; split <;> rfl
@[simp] theorem bootStage2_fcr0 : (bootStage2 s).fcr0 = s.fcr0 := by unfold bootStage2; split <;> rfl
@[simp] theorem bootStage2_fcsr : (bootStage2 s).fcsr = s.fcsr := by unfold bootStage2; split <;> rfl
@[simp] theorem bootStage2_c0 : (bootStage2 s).c0 = s.c0 := by unfold bootStage2; split <;> rfl
@[simp] theorem bootStage2_cart : (bootStage2 s).cart = s.cart := by unfold bootStage2; split <;> rfl
@[simp] theorem bootStage2_pi : (bootStage2 s).pi = s.pi := by unfold bootStage2; split <;> rfl
@[simp] theorem bootStage2_block : (bootStage2 s).block = s.block := by unfold bootStage2; split <;> rfl
@[simp] theorem bootStage2_latch : (bootStage2 s).latch = s.latch := by unfold bootStage2; split <;> rfl
@[simp] theorem bootStage2_cfg : (bootStage2 s).cfg = s.cfg := by unfold bootStage2; split <;> rfl

theorem bootStage1_readC0_status :
    (bootStage1 s).readC0 12 = mergeBits 0xFF57FFFF#64 (s.readC0 12) s.cfg.bootStatus := by
  refine (State.readC0_congr (State.writeX_c0 ..) 12).trans ?_
  rw [State.readC0_writeC0_ne _ _ (by decide), State.readC0_writeC0_self, slotMask_status]

theorem bootStage1_readC0_config :
    (bootStage1 s).readC0 16 = mergeBits 0x0F00800F#64 (s.readC0 16) s.cfg.bootConfig := by
  refine (State.readC0_congr (State.writeX_c0 ..) 16).trans ?_
  rw [State.readC0_writeC0_self, State.readC0_writeC0_ne _ _ (by decide), State.writeC0_cfg, slotMask_config]

theorem bootStage1_readC0_ne {i : RegIdx} (h12 : i ≠ 12) (h16 : i ≠ 16) :
    (bootStage1 s).readC0 i = s.readC0 i := by
  refine (State.readC0_congr (State.writeX_c0 ..) i).trans ?_
  rw [State.readC0_writeC0_ne _ _ h16, State.readC0_writeC0_ne _ _ h12]

theorem bootStage1_readX (i : RegIdx) :
    (bootStage1 s).readX i = if i = 29 then s.cfg.bootSp else s.readX i := by
  by_cases h : i = 29
  · subst h
    exact State.readX_writeX_self _ _ _
  · rw [if_neg h]
    exact State.readX_writeX_ne _ _ h

end

section
variable {s : State} (h : 4096 ≤ s.cart.length)
include h

/-- Boot stage two with a cartridge that is long enough. -/
theorem bootStage2_of_cart :
    bootStage2 s = { s with mem := s.mem.setBytes Config.spBase (s.cart.take Config.bootCopyLen),
                            pc := Config.bootEntryPc s.cfg.bootEntry, phase := .running } :=
  if_neg (Nat.not_lt.mpr h)

/-- DMEM receives the first bytes of the cartridge. -/
theorem bootStage2_dmem (hwf : s.mem.wf = true) {i : Nat} (hi : i < 4096) :
    s.cart[i]? = some ((bootStage2 s).dmem i) := by
  have hlen : i < (s.cart.take Config.bootCopyLen).length := by
    simp only [List.length_take, Config.bootCopyLen]
    omega
  have hbyte : (bootStage2 s).dmem i = (s.cart.take Config.bootCopyLen)[i] := by
    rw [bootStage2_of_cart h]
    exact Memory.get_setBytes_in hwf hlen
  rw [hbyte, List.getElem_take, List.getElem?_eq_getElem]

/-- Every byte outside DMEM is as before. -/
theorem bootStage2_mem_out {a : Nat} (ha : a < Config.spBase ∨ Config.spBase + Config.dmemSize ≤ a) :
    (bootStage2 s).mem.get a = s.mem.get a := by
  rw [bootStage2_of_cart h]
  refine Memory.get_setBytes_out _ _ (ha.imp_right fun ha => ?_)
  simp only [List.length_take, Config.bootCopyLen, Config.dmemSize] at ha ⊢
  omega

end

/-! ## The state the first instruction sees (R72) -/

section
variable (cart : List Byte) (pi : Peripheral) (cfg : Params)

/-- The state between the boot stages, from reset. -/
abbrev seeded : State := bootStage1 (hostReset cart pi cfg)

theorem seeded_readC0_status : (seeded cart pi cfg).readC0 12 = cfg.bootStatus &&& 0xFF57FFFF#64 := by
  rw [bootStage1_readC0_status, hostReset_readC0]
  simp [mergeBits, hostReset]

theorem seeded_readC0_config :
    (seeded cart pi cfg).readC0 16 = (cfg.bootConfig &&& 0x0F00800F#64) ||| 0x00066460#64 := by
  rw [bootStage1_readC0_config, hostReset_readC0, if_neg (by decide), if_pos rfl]
  exact BitVec.or_comm (0x00066460#64) _

theorem seeded_readC0_prid : (seeded cart pi cfg).readC0 15 = cfg.pridValue.setWidth 64 := by
  rw [bootStage1_readC0_ne _ (by decide) (by decide), hostReset_readC0]
  rfl

theorem seeded_readC0_ne {i : RegIdx} (h12 : i ≠ 12) (h15 : i ≠ 15) (h16 : i ≠ 16) :
    (seeded cart pi cfg).readC0 i = 0#64 := by
  rw [bootStage1_readC0_ne _ h12 h16, hostReset_readC0, if_neg h15, if_neg h16]

theorem seeded_readX (i : RegIdx) : (seeded cart pi cfg).readX i = if i = 29 then cfg.bootSp else 0#64 := by
  rw [bootStage1_readX, hostReset_readX]
  rfl

end

/-- What the first instruction sees of memory: DMEM holds the start of the cartridge, and RAM and IMEM what
they held before boot. -/
theorem booted_memory {cart : List Byte} (pi : Peripheral) (cfg : Params) (h : 4096 ≤ cart.length) :
    (∀ i < 4096, cart[i]? = some ((bootStage2 (seeded cart pi cfg)).dmem i))
      ∧ (∀ i < 4096, (bootStage2 (seeded cart pi cfg)).imem i = cfg.initImem.getD i 0#8)
      ∧ ∀ i < cfg.ramSize.val, (bootStage2 (seeded cart pi cfg)).ram i = cfg.initRam.getD i 0#8 := by
  have hcart : (seeded cart pi cfg).cart = cart := bootStage1_cart _
  have hmem : (seeded cart pi cfg).mem = initMemory cfg := bootStage1_mem _
  have hlen : 4096 ≤ (seeded cart pi cfg).cart.length := by rwa [hcart]
  refine ⟨fun i hi => ?_, fun i hi => ?_, fun i hi => ?_⟩
  · have hbyte := bootStage2_dmem hlen (by rw [hmem]; exact initMemory_wf cfg) hi
    rwa [hcart] at hbyte
  · refine (bootStage2_mem_out hlen (.inr (Nat.le_add_right _ _))).trans ?_
    rw [hmem]
    exact initMemory_imem hi
  · have hram : i < Config.spBase := Nat.lt_of_lt_of_le hi (ramSize_le cfg)
    refine (bootStage2_mem_out hlen (.inl hram)).trans ?_
    rw [hmem]
    exact initMemory_ram hi

/-- Settles O60: stage one seeds the registers, stage two the data memory and the program counter, and both
leave everything else as reset left it. -/
theorem bootedState : Obligations.BootedState := by
  intro cart pi cfg hlen
  have hu := bootStage2_of_cart (s := seeded cart pi cfg) (by simpa [hostReset] using hlen)
  have hpc : (bootStage2 (seeded cart pi cfg)).pc = Config.bootEntryPc cfg.bootEntry := by
    rw [hu, bootStage1_cfg]
    rfl
  have hc0 : ∀ i, (bootStage2 (seeded cart pi cfg)).readC0 i = (seeded cart pi cfg).readC0 i :=
    State.readC0_congr (bootStage2_c0 _)
  have hx : ∀ i, (bootStage2 (seeded cart pi cfg)).readX i = if i = 29 then cfg.bootSp else 0#64 :=
    fun i => (State.readX_congr (bootStage2_x _) i).trans (seeded_readX cart pi cfg i)
  have hstatus := (hc0 12).trans (seeded_readC0_status cart pi cfg)
  have hconfig := (hc0 16).trans (seeded_readC0_config cart pi cfg)
  have hprid := (hc0 15).trans (seeded_readC0_prid cart pi cfg)
  have hfcr0 : (bootStage2 (seeded cart pi cfg)).readFcr 0 = some (cfg.fcr0Value.setWidth 64) :=
    congrArg some ((bootStage2_fcr0 _).trans (bootStage1_fcr0 _))
  have hfcsr : (bootStage2 (seeded cart pi cfg)).readFcr 31 = some 0#64 :=
    congrArg some ((bootStage2_fcsr _).trans (bootStage1_fcsr _))
  obtain ⟨hdmem, himem, hram⟩ := booted_memory pi cfg hlen
  have hf : ∀ i, (bootStage2 (seeded cart pi cfg)).readF i = 0#64 := fun i =>
    (State.readF_congr ((bootStage2_f _).trans (bootStage1_f _)) i).trans (hostReset_readF cart pi cfg i)
  refine ⟨seeded cart pi cfg, bootStage2 (seeded cart pi cfg), rfl, rfl, by rw [hu], hstatus, hconfig, hprid,
    fun i h12 h15 h16 => (hc0 i).trans (seeded_readC0_ne cart pi cfg h12 h15 h16), hx,
    fun e => by rw [hpc, e]; rfl, fun e => by rw [hpc, e]; rfl, hdmem, himem, hram, hf, hfcr0,
    hfcsr, (bootStage2_hi _).trans (bootStage1_hi _), (bootStage2_lo _).trans (bootStage1_lo _),
    (bootStage2_llbit _).trans (bootStage1_llbit _), (bootStage2_block _).trans (bootStage1_block _),
    (bootStage2_latch _).trans (bootStage1_latch _), (bootStage2_cart _).trans (bootStage1_cart _),
    (bootStage2_pi _).trans (bootStage1_pi _), (bootStage2_cfg _).trans (bootStage1_cfg _), ?_⟩
  rintro rfl
  have hbit : ∀ k, (bootStage2 (seeded cart pi Params.defaults)).status.getLsbD k
      = (0x34000000#64).getLsbD k := fun k => by rw [State.status, hstatus]; rfl
  exact ⟨hstatus, hconfig, hprid, hfcr0, hx 29, hpc, hbit 29, hbit 1, hbit 2, hbit 22, himem,
    fun i hi => hram i hi⟩

end Sys2Proof.Machine

/-! # Memory: the block in memory, translation, physical accesses, DMA, stores and loads (20_memory.md; R103,
R190, R195; 41_load_store.md)

The laws of the router say what each of its operations answers where an access lies in a memory row, in the
collaborator's window, or nowhere. Here the places are given by the address itself (`physical_eq_some`,
`dispatch_ram`, `dispatch_sp`, `dispatch_pi`), and the bytes in memory and the number they form by the value
stored (`byteAt_stored`, `memRead_stored`). -/

namespace Sys2Proof.Machine

/-! ## The words of a block (R103, R195) -/

/-- The word of every entry was fetched at its address, in a state that differs in the collaborator only. -/
theorem scanBlock_fetched {start : Word} {n : Nat} {a : Word} {s s' : State} {b : List BlockEntry}
    (h : scanBlock start n a s = .ok b s') :
    ∀ e ∈ b, ∃ p u, fetch e.addr { s with pi := p } = .ok e.word u := by
  induction n generalizing a s b with
  | zero => cases h
  | succ n ih =>
    unfold scanBlock at h
    obtain ⟨w, p, hw⟩ | ⟨f, hw⟩ := fetch_cases a s
    · rw [hw] at h
      dsimp only at h
      split at h
      · split at h
        · cases h
        · rename_i d u hd
          cases h
          simp only [List.forall_mem_cons]
          exact ⟨⟨s.pi, _, hw⟩, ⟨p, _, hd⟩, fun e he => absurd he List.not_mem_nil⟩
      · split at h
        · cases h
        · rename_i rest u hrest
          cases h
          simp only [List.forall_mem_cons]
          exact ⟨⟨s.pi, _, hw⟩, ih (s := { s with pi := p }) hrest⟩
    · rw [hw] at h
      cases h

/-- The word fetched where an access lies in a memory row, whatever the collaborator. -/
theorem word_of_fetch {s u : State} {a : Word} {w : InstrWord} {p : Peripheral} {pa : Nat}
    (hf : fetch a { s with pi := p } = .ok w u) (hm : inMemory s.cfg a 4 pa) :
    w = s.byteAt pa 0 ++ s.byteAt pa 1 ++ s.byteAt pa 2 ++ s.byteAt pa 3 := by
  rw [fetch_memory (s := { s with pi := p }) hm] at hf
  cases hf
  rfl

/-- Forming a block that leaves the machine running: the block, its addresses and where its words are from. -/
theorem formBlock_running {s : State} (ht : (formBlock s).phase = .running) :
    ∃ e rest p, formBlock s = { s with pi := p, block := e :: rest }
      ∧ consecutiveFrom s.cfg s.pc (e :: rest)
      ∧ ∀ e' ∈ e :: rest, ∃ q u, fetch e'.addr { s with pi := q } = .ok e'.word u := by
  unfold formBlock findBlock at ht ⊢
  obtain ⟨b, p, hb, hshape, haddr, -⟩ | ⟨f, p, hb⟩ := scanBlock_cases s.pc s.cfg.blockScanLimit s.pc s
  · cases b with
    | nil => exact hshape.elim
    | cons e rest =>
      rw [hb]
      exact ⟨e, rest, p, rfl, haddr, scanBlock_fetched hb⟩
  · rw [hb] at ht
    cases ht

/-- A running machine executes the word at the head of its block. -/
theorem step_head {s : State} {e : BlockEntry} {rest : List BlockEntry} (hp : s.phase = .running)
    (hb : s.block = e :: rest) : step s = execWord e.word s := by
  simp only [step, hp, hb]

/-- Settles O8, from the fetches of the scan and the addresses of its entries. -/
theorem formThenRun : Obligations.FormThenRun := by
  intro s t hp hb hstep ht
  have hform : step s = .next (formBlock s) := by simp only [step, hp, hb]
  obtain rfl : formBlock s = t := Host.Outcome.next.inj (hform.symm.trans hstep)
  obtain ⟨e, rest, p, hblock, haddr, hfetch⟩ := formBlock_running ht
  have hword : ∀ e' ∈ e :: rest, ∀ pa, inMemory s.cfg e'.addr 4 pa →
      e'.word = s.byteAt pa 0 ++ s.byteAt pa 1 ++ s.byteAt pa 2 ++ s.byteAt pa 3 := by
    intro e' he' pa hm
    obtain ⟨q, u, hf⟩ := hfetch e' he'
    exact word_of_fetch hf hm
  rw [hblock]
  refine ⟨rfl, fun k e' hk => ⟨consecutiveFrom_addr haddr hk, hword e' (List.mem_of_getElem? hk)⟩,
    fun pa hm => ?_⟩
  rw [← hword e List.mem_cons_self pa (haddr.1 ▸ hm),
    step_head (s := { s with pi := p, block := e :: rest }) hp rfl]
  refine ⟨fun i hi => ?_, fun hi => ?_⟩
  · simp only [execWord, hi]
  · simp only [execWord, hi]
    rfl

/-! ## Translation (R83, R84) -/

/-- Everything the translation of a 64-bit address answers. -/
theorem physical_eq_some {cfg : Params} {va : EffAddr} {n pa : Nat} :
    physical cfg va n = some pa ↔ 0xFFFFFFFFA0000000 ≤ va.toNat
      ∧ 0xFFFFFFFF00000000 + cfg.kseg1Base.toNat ≤ va.toNat ∧ va.toNat + (n - 1) ≤ 0xFFFFFFFFBFFFFFFF
      ∧ pa = va.toNat - (0xFFFFFFFF00000000 + cfg.kseg1Base.toNat) := by
  have hlow : (va.setWidth 32).toNat = va.toNat % 2 ^ 32 := BitVec.toNat_setWidth ..
  have hva := va.isLt
  unfold physical canon
  constructor
  · intro h
    split at h
    · rename_i hc
      obtain ⟨h1, -, h3, h4, h5⟩ := translate_eq_some.mp h
      have hext := toNat_signExtend_upper (v := va.setWidth 32) (by omega)
      rw [← hc] at hext
      omega
    · cases h
  · rintro ⟨h1, h2, h3, h4⟩
    have hc : va = (va.setWidth 32).signExtend 64 := by
      apply BitVec.eq_of_toNat_eq
      rw [toNat_signExtend_upper (by omega)]
      omega
    rw [if_pos hc]
    exact translate_eq_some.mpr (by omega)

/-- An access that does not translate ends in `UnmappedSegment`. -/
theorem routerRead_unmapped {s : State} {va : EffAddr} {n : Nat} (h : physical s.cfg va n = none) :
    routerRead va n s = .fatal (.unsupportedFeature .unmappedSegment) s := by
  simp only [routerRead, h]

theorem routerWrite_unmapped {s : State} {va : EffAddr} {bytes : List Byte}
    (h : physical s.cfg va bytes.length = none) :
    routerWrite va bytes s = .fatal (.unsupportedFeature .unmappedSegment) s := by
  simp only [routerWrite, h]

/-- Settles O13: `physical_eq_some` says which accesses translate, and to what. -/
theorem translateWindow : Obligations.TranslateWindow := by
  refine ⟨fun s va n _ => ⟨fun ⟨h1, h2, h3⟩ => physical_eq_some.mpr ⟨h1, h2, h3, rfl⟩, fun h bytes hlen => ?_⟩,
    rfl⟩
  have hnone : physical s.cfg va n = none := by
    refine Option.eq_none_iff_forall_ne_some.mpr fun pa hpa => h ?_
    obtain ⟨h1, h2, h3, -⟩ := physical_eq_some.mp hpa
    exact ⟨h1, h2, h3⟩
  exact ⟨routerRead_unmapped hnone, routerWrite_unmapped (hlen ▸ hnone)⟩

/-! ## Physical accesses (R90, R92 to R96) -/

section
variable {s : State} {pa n : Nat}

theorem physRead_memory (h : dispatch s.cfg pa n = some .ram ∨ dispatch s.cfg pa n = some .sp) :
    physRead pa n s = .ok (readCells s.mem pa n) s := by
  unfold physRead
  obtain h | h := h
  · rw [h]
  · rw [h]

theorem physRead_window (h : dispatch s.cfg pa n = some .pi) :
    physRead pa n s = .ok (s.pi.read pa n).1 { s with pi := (s.pi.read pa n).2 } := by
  simp only [physRead, h]

theorem physRead_unbacked (h : dispatch s.cfg pa n = none) :
    physRead pa n s = .fatal (.memoryFault (.address pa)) s := by
  simp only [physRead, h]

theorem physWrite_memory {bytes : List Byte} (h : dispatch s.cfg pa bytes.length = some .ram
      ∨ dispatch s.cfg pa bytes.length = some .sp) :
    physWrite pa bytes s = .ok none { s with mem := writeCells s.mem pa bytes } := by
  unfold physWrite
  obtain h | h := h
  · rw [h]
  · rw [h]

theorem physWrite_window {bytes : List Byte} (h : dispatch s.cfg pa bytes.length = some .pi) :
    physWrite pa bytes s = .ok (s.pi.write pa bytes).1 { s with pi := (s.pi.write pa bytes).2 } := by
  simp only [physWrite, h]

theorem physWrite_unbacked {bytes : List Byte} (h : dispatch s.cfg pa bytes.length = none) :
    physWrite pa bytes s = .fatal (.memoryFault (.address pa)) s := by
  simp only [physWrite, h]

/-- The cells of an access that stays below the end of the coprocessor row, as bytes of the rows. -/
theorem readCells_eq_rowBytes (h : pa + n ≤ 0x04040000) :
    readCells s.mem pa n = (List.range n).map fun i => rowByte s (pa + i) := by
  refine List.map_congr_left fun i hi => ?_
  have hi := List.mem_range.mp hi
  exact (rowByte_cellOf s (by omega)).symm

end

/-- Two addresses of the coprocessor row name one byte exactly when they are mirrors (R94). -/
theorem cellOf_eq_iff_mirror {a b : Nat} (ha : 0x04000000 ≤ a) (hb : 0x04000000 ≤ b) :
    cellOf a = cellOf b ↔ a % 8192 = b % 8192 := by
  rw [cellOf_sp ha, cellOf_sp hb]
  omega

/-- An address of RAM and an address of the coprocessor row name different bytes. -/
theorem cellOf_ne_of_rows {a b : Nat} (ha : a < 0x04000000) (hb : 0x04000000 ≤ b) : cellOf a ≠ cellOf b := by
  rw [cellOf_ram ha, cellOf_sp hb]
  omega

theorem cellOf_mirror {i : Nat} : cellOf (0x04000000 + i) = cellOf (0x04000000 + i % 8192) :=
  (cellOf_eq_iff_mirror (by omega) (by omega)).mpr (by omega)

/-- What a read answers: the bytes of a memory row, the collaborator's, or `MemoryFault`. -/
theorem physRead_rows (s : State) (pa n : Nat) (hn : 1 ≤ n) :
    ((pa + n ≤ s.cfg.ramSize.val ∨ (0x04000000 ≤ pa ∧ pa + n ≤ 0x04040000)) →
      physRead pa n s = .ok ((List.range n).map fun i => rowByte s (pa + i)) s)
    ∧ (0x04600000 ≤ pa ∧ pa + n ≤ 0x04700000 →
      physRead pa n s = .ok (s.pi.read pa n).1 { s with pi := (s.pi.read pa n).2 })
    ∧ (¬ pa + n ≤ s.cfg.ramSize.val → ¬ (0x04000000 ≤ pa ∧ pa + n ≤ 0x04040000) →
      ¬ (0x04600000 ≤ pa ∧ pa + n ≤ 0x04700000) →
      physRead pa n s = .fatal (.memoryFault (.address pa)) s) := by
  refine ⟨fun h => ?_, fun h => physRead_window ((dispatch_pi hn).mpr h),
    fun hr hs hp => physRead_unbacked (dispatch_none hn hr hs hp)⟩
  have hle := ramSize_le s.cfg
  rw [physRead_memory (h.imp (dispatch_ram hn).mpr (dispatch_sp hn).mpr), readCells_eq_rowBytes (by omega)]

/-- A byte of the coprocessor row reads as its mirror. -/
theorem physRead_mirror (s : State) {i : Nat} (hi : i ≤ 0x3FFFF) :
    physRead (0x04000000 + i) 1 s = physRead (0x04000000 + i % 8192) 1 s := by
  have hsp : ∀ j ≤ 0x3FFFF, physRead (0x04000000 + j) 1 s = .ok (readCells s.mem (0x04000000 + j) 1) s :=
    fun j hj => physRead_memory (.inr ((dispatch_sp le_rfl).mpr (by omega)))
  have hcells : readCells s.mem (0x04000000 + i) 1 = readCells s.mem (0x04000000 + i % 8192) 1 :=
    congrArg (fun c => [s.mem.get c]) cellOf_mirror
  rw [hsp i hi, hsp (i % 8192) (by omega), hcells]

section
variable {s : State} {pa : Nat} {bytes : List Byte} (hn : 1 ≤ bytes.length)
include hn

/-- A write of RAM: the bytes written, and no other byte. -/
theorem physWrite_ram (h : pa + bytes.length ≤ s.cfg.ramSize.val) (hwf : s.mem.wf = true) :
    ∃ t, physWrite pa bytes s = .ok none t ∧ t = { s with mem := t.mem }
      ∧ (∀ i < bytes.length, bytes[i]? = some (t.ram (pa + i)))
      ∧ ∀ a, (a < pa ∨ pa + bytes.length ≤ a) → a ≤ 0x0403FFFF → rowByte t a = rowByte s a := by
  have hle := ramSize_le s.cfg
  have hcell : ∀ i < bytes.length, cellOf (pa + i) = pa + i := fun i hi => cellOf_ram (by omega)
  refine ⟨_, physWrite_memory (.inl ((dispatch_ram hn).mpr h)), rfl, fun i hi => ?_, fun a ha hrow => ?_⟩
  · have hbyte := get_writeCells_last hwf (pa := pa) hi fun j hj hij => by
      rw [hcell j hj, hcell i hi]
      omega
    rw [hcell i hi] at hbyte
    rw [List.getElem?_eq_getElem hi]
    exact congrArg some hbyte.symm
  · rw [rowByte_cellOf _ hrow, rowByte_cellOf _ hrow]
    refine get_writeCells_out _ _ fun i hi => ?_
    by_cases hsp : 0x04000000 ≤ a
    · exact (cellOf_ne_of_rows (by omega) hsp).symm
    · rw [cellOf_ram (by omega), hcell i hi]
      omega

/-- A write of the coprocessor row: the bytes written and their mirrors, the later one where two fall on one
byte, and no other byte. -/
theorem physWrite_sp (hlo : 0x04000000 ≤ pa) (hhi : pa + bytes.length ≤ 0x04040000) (hwf : s.mem.wf = true) :
    ∃ t, physWrite pa bytes s = .ok none t ∧ t = { s with mem := t.mem }
      ∧ (∀ i < bytes.length, (∀ j < bytes.length, i < j → (pa + j) % 8192 ≠ (pa + i) % 8192) →
          ∀ a, 0x04000000 ≤ a → a ≤ 0x0403FFFF → a % 8192 = (pa + i) % 8192 →
            bytes[i]? = some (rowByte t a))
      ∧ ∀ a ≤ 0x0403FFFF, (a < 0x04000000 ∨ ∀ i < bytes.length, a % 8192 ≠ (pa + i) % 8192) →
          rowByte t a = rowByte s a := by
  have hmirror : ∀ a, 0x04000000 ≤ a → ∀ i, cellOf a = cellOf (pa + i) ↔ a % 8192 = (pa + i) % 8192 :=
    fun a ha i => cellOf_eq_iff_mirror ha (by omega)
  refine ⟨_, physWrite_memory (.inr ((dispatch_sp hn).mpr ⟨hlo, hhi⟩)), rfl,
    fun i hi hlast a ha hrow hai => ?_, fun a hrow ha => ?_⟩
  · have hbyte := get_writeCells_last hwf (pa := pa) hi fun j hj hij =>
      mt (hmirror (pa + j) (by omega) i).mp (hlast j hj hij)
    rw [rowByte_cellOf _ hrow, (hmirror a ha i).mpr hai, List.getElem?_eq_getElem hi]
    exact congrArg some hbyte.symm
  · rw [rowByte_cellOf _ hrow, rowByte_cellOf _ hrow]
    refine get_writeCells_out _ _ fun i hi => ?_
    by_cases hram : a < 0x04000000
    · exact cellOf_ne_of_rows hram (by omega)
    · exact mt (hmirror a (by omega) i).mp (ha.resolve_left hram i hi)

end

/-- Settles O14, row by row. -/
theorem physicalAccess : Obligations.PhysicalAccess :=
  ⟨physRead_rows, fun s _ hi => physRead_mirror s hi, fun _ _ _ hn =>
    ⟨physWrite_ram hn, physWrite_sp hn,
      fun hlo hhi => physWrite_window ((dispatch_pi hn).mpr ⟨hlo, hhi⟩),
      fun hr hs hp => physWrite_unbacked (dispatch_none hn hr hs hp)⟩, rfl⟩

/-! ## DMA (R97, R100 to R102) -/

section
variable {d : DmaDescriptor} {s : State}

/-- The bytes a descriptor copies are those of the cartridge from its source on. -/
theorem getElem?_cartWindow {i : Nat} (hi : i < d.length.toNat) :
    (cartWindow s d)[i]? = s.cart[d.source.toNat - s.cfg.cartRomBase.toNat + i]? := by
  simp only [cartWindow, List.getElem?_take, hi, if_true, List.getElem?_drop]

theorem cartWindow_length
    (h : d.source.toNat - s.cfg.cartRomBase.toNat + d.length.toNat ≤ s.cart.length) :
    (cartWindow s d).length = d.length.toNat := by
  simp only [cartWindow, List.length_take, List.length_drop]
  omega

section
variable (hsrc : s.cfg.cartRomBase.toNat ≤ d.source.toNat)
  (hdst : d.destination.toNat < s.cfg.cartRomBase.toNat)
include hsrc hdst

/-- A DMA from the cartridge to RAM, with its two range checks in order. -/
theorem runDma_toRam :
    runDma d s =
      if d.source.toNat - s.cfg.cartRomBase.toNat + d.length.toNat > s.cart.length then
        .fatal (.memoryFault .dmaCartRange) s
      else if d.destination.toNat + d.length.toNat > s.cfg.ramSize.val then
        .fatal (.memoryFault .dmaRamRange) s
      else .ok () { s with mem := s.mem.setBytes d.destination.toNat (cartWindow s d) } := by
  simp [runDma, isCartAddress, hsrc, hdst]

/-- A DMA from the cartridge to RAM within both ranges copies its bytes, and changes no other byte. -/
theorem runDma_copies (hcart : d.source.toNat - s.cfg.cartRomBase.toNat + d.length.toNat ≤ s.cart.length)
    (hram : d.destination.toNat + d.length.toNat ≤ s.cfg.ramSize.val) (hwf : s.mem.wf = true) :
    ∃ t, runDma d s = .ok () t ∧ t = { s with mem := t.mem }
      ∧ (∀ i < d.length.toNat, s.cart[d.source.toNat - s.cfg.cartRomBase.toNat + i]?
          = some (t.ram (d.destination.toNat + i)))
      ∧ ∀ a, (a < d.destination.toNat ∨ d.destination.toNat + d.length.toNat ≤ a) →
          t.mem.get a = s.mem.get a := by
  have hlen := cartWindow_length hcart
  have hrun := runDma_toRam hsrc hdst
  rw [if_neg (by omega), if_neg (by omega)] at hrun
  refine ⟨_, hrun, rfl, fun i hi => ?_, fun a ha => Memory.get_setBytes_out _ _ (by rwa [hlen])⟩
  have hi' : i < (cartWindow s d).length := by rwa [hlen]
  rw [← getElem?_cartWindow hi, List.getElem?_eq_getElem hi']
  exact congrArg some (Memory.get_setBytes_in hwf hi').symm

end

/-- A DMA from RAM to the cartridge. -/
theorem runDma_toCart (hsrc : d.source.toNat < s.cfg.cartRomBase.toNat)
    (hdst : s.cfg.cartRomBase.toNat ≤ d.destination.toNat) :
    runDma d s = if d.source.toNat + d.length.toNat > s.cfg.ramSize.val then
      .fatal (.memoryFault .dmaRamRange) s else .ok () s := by
  simp [runDma, isCartAddress, hsrc, hdst]

/-- A DMA with both sides, or neither, in cartridge space. -/
theorem runDma_sameSide
    (h : s.cfg.cartRomBase.toNat ≤ d.source.toNat ↔ s.cfg.cartRomBase.toNat ≤ d.destination.toNat) :
    runDma d s = .fatal (.unsupportedFeature .dmaDirection) s := by
  have hside : isCartAddress s.cfg d.source = isCartAddress s.cfg d.destination := decide_eq_decide.mpr h
  simp [runDma, hside]

end

/-- The example of R102. -/
theorem runDma_example {s : State} (hcart : 0x140 ≤ s.cart.length) (hwf : s.mem.wf = true)
    (hpos : 0 < s.cfg.cartRomBase.toNat) (hbase : s.cfg.cartRomBase.toNat + 0x40 < 2 ^ 32)
    (hram : 0x100 ≤ s.cfg.ramSize.val) :
    ∃ t, runDma { source := s.cfg.cartRomBase + 0x40#32, destination := 0#32, length := 0x100#32 } s
        = .ok () t
      ∧ ∀ i < 0x100, s.cart[0x40 + i]? = some (t.ram i) := by
  have hsrc : (s.cfg.cartRomBase + 0x40#32).toNat = s.cfg.cartRomBase.toNat + 0x40 :=
    Nat.mod_eq_of_lt hbase
  have hdst : (0#32).toNat = 0 := rfl
  have hlen : (0x100#32).toNat = 0x100 := rfl
  obtain ⟨t, hrun, -, hcopy, -⟩ := runDma_copies
    (d := { source := s.cfg.cartRomBase + 0x40#32, destination := 0#32, length := 0x100#32 })
    (by dsimp only; omega) hpos (by dsimp only; omega) (by dsimp only; omega) hwf
  refine ⟨t, hrun, fun i hi => ?_⟩
  simpa only [hsrc, hdst, Nat.add_sub_cancel_left, Nat.zero_add] using hcopy i hi

/-- Settles O15, by the direction of the transfer. -/
theorem dmaCopies : Obligations.DmaCopies := by
  refine ⟨fun d s => ⟨fun hsrc hdst => ⟨fun hcart => ?_, fun hcart hram => ?_, runDma_copies hsrc hdst⟩,
    fun hsrc hdst => ⟨fun hram => ?_, fun hram => ?_⟩,
    fun hsrc hdst => runDma_sameSide (iff_of_true hsrc hdst),
    fun hsrc hdst => runDma_sameSide (iff_of_false (Nat.not_le.mpr hsrc) (Nat.not_le.mpr hdst))⟩,
    fun s => runDma_example, rfl, rfl⟩
  · rw [runDma_toRam hsrc hdst, if_pos hcart]
  · rw [runDma_toRam hsrc hdst, if_neg (Nat.not_lt.mpr hcart), if_pos hram]
  · rw [runDma_toCart hsrc hdst, if_pos hram]
  · rw [runDma_toCart hsrc hdst, if_neg (Nat.not_lt.mpr hram)]

/-! ## A stored value loaded back (R104, R105, R107) -/

/-- In the little-endian order the stored bytes form the low part of the value. -/
theorem bytesNumber_little_storeBytes (v : Word) (n : Nat) :
    bytesNumber .little (storeBytes v n) = v.toNat % 256 ^ n := by
  induction n generalizing v with
  | zero => simp [storeBytes, bytesNumber, Nat.mod_one]
  | succ n ih =>
    have hrest : bytesNumber .little (storeBytes (v >>> 8) n) = v.toNat / 256 % 256 ^ n := by
      rw [ih, BitVec.toNat_ushiftRight, Nat.shiftRight_eq_div_pow]
    calc bytesNumber .little (storeBytes v (n + 1))
        = (v.setWidth 8).toNat + 256 * bytesNumber .little (storeBytes (v >>> 8) n) := rfl
      _ = v.toNat % 256 + 256 * (v.toNat / 256 % 256 ^ n) := by rw [hrest, BitVec.toNat_setWidth]
      _ = v.toNat % 256 ^ (n + 1) := by rw [Nat.pow_succ', Nat.mod_mul]

/-- One more byte, below the others, in the big-endian order. -/
theorem toNat_append_byte {w : Nat} (x : BitVec w) (b : Byte) : (x ++ b).toNat = 256 * x.toNat + b.toNat := by
  rw [BitVec.toNat_append, ← Nat.shiftLeft_add_eq_or_of_lt b.isLt, Nat.shiftLeft_eq, Nat.mul_comm]

/-- In the big-endian order bytes form the number of the bytes put side by side, the first one on top. -/
theorem bytesNumber_big_two (b0 b1 : Byte) : bytesNumber .big [b0, b1] = (b0 ++ b1).toNat := by
  simp [bytesNumber, toNat_append_byte]

theorem bytesNumber_big_four (b0 b1 b2 b3 : Byte) :
    bytesNumber .big [b0, b1, b2, b3] = (b0 ++ b1 ++ b2 ++ b3).toNat := by
  simp [bytesNumber, toNat_append_byte]

theorem bytesNumber_big_eight (b0 b1 b2 b3 b4 b5 b6 b7 : Byte) :
    bytesNumber .big [b0, b1, b2, b3, b4, b5, b6, b7]
      = (b0 ++ b1 ++ b2 ++ b3 ++ b4 ++ b5 ++ b6 ++ b7).toNat := by
  simp [bytesNumber, toNat_append_byte]

/-- The bytes of an access to a memory row lie below the end of the coprocessor row. -/
theorem inMemory_le {cfg : Params} {va : EffAddr} {n pa : Nat} (hn : 1 ≤ n) (h : inMemory cfg va n pa) :
    pa + n ≤ 0x04040000 := by
  obtain ⟨-, -, hrow⟩ := h
  have hle := ramSize_le cfg
  rw [dispatch_ram hn, dispatch_sp hn] at hrow
  omega

/-- The state after the low `n` bytes of `v` are stored from physical address `pa` of a memory row on. -/
def State.stored (s : State) (pa n : Nat) (v : Word) : State :=
  { s with mem := writeCells s.mem pa (storeBytes v n) }

theorem memWrite_stored {s : State} {a : Word} {n pa : Nat} (hm : inMemory s.cfg a n pa) (v : Word) :
    memWrite a n v s = .ok () (s.stored pa n v) :=
  memWrite_memory hm v

section
variable {s : State} {a : Word} {n pa : Nat} {v : Word}
  (hn : n ∈ [1, 2, 4, 8]) (hm : inMemory s.cfg a n pa) (hwf : s.mem.wf = true)

include hn hm hwf

/-- Byte `k` of a stored value. -/
theorem byteAt_stored {k : Nat} (hk : k < n) : (s.stored pa n v).byteAt pa k = v.extractLsb' (8 * k) 8 := by
  have hn8 : n ≤ 8192 := by
    simp only [List.mem_cons, List.not_mem_nil, or_false] at hn
    omega
  obtain ⟨-, -, hrow⟩ := hm
  have hinj := (dispatch_cells hrow hn8).2
  have hbyte := get_writeCells_in hwf (pa := pa) (i := k) (bs := storeBytes v n) (by simpa using hk)
    (by simpa using hinj)
  refine hbyte.trans ?_
  simp [storeBytes_register, registerBytes]

/-- The same byte, by its address in the rows. -/
theorem rowByte_stored {k : Nat} (hk : k < n) : rowByte (s.stored pa n v) (pa + k) = v.extractLsb' (8 * k) 8 := by
  have hend := inMemory_le (by omega) hm
  rw [rowByte_cellOf _ (by omega)]
  exact byteAt_stored hn hm hwf hk

/-- A load at an aligned place inside the stored value sees the number its bytes form. -/
theorem memRead_stored {m k : Nat} (hmm : m ∈ [1, 2, 4, 8]) (hk : k % m = 0) (hkm : k + m ≤ n) :
    memRead (a + BitVec.ofNat 64 k) m (s.stored pa n v) = .ok (BitVec.ofNat 64
      (bytesNumber s.cfg.loadByteOrder ((List.range m).map fun j => v.extractLsb' (8 * (k + j)) 8)))
      (s.stored pa n v) := by
  have hin : inMemory (s.stored pa n v).cfg (a + BitVec.ofNat 64 k) m (pa + k) :=
    inMemory_within hm hn hmm hk hkm
  have hbytes : readCells (s.stored pa n v).mem (pa + k) m
      = (List.range m).map fun j => v.extractLsb' (8 * (k + j)) 8 := by
    refine List.map_congr_left fun j hj => ?_
    have hj := List.mem_range.mp hj
    rw [Nat.add_assoc]
    exact byteAt_stored hn hm hwf (by omega)
  have hm8 : m ≤ 8 := by
    simp only [List.mem_cons, List.not_mem_nil, or_false] at hmm
    omega
  rw [memRead_memory hin, hbytes, loadValue_number _ _ (by simpa using hm8)]
  rfl

/-- A load at the address of the store. -/
theorem memRead_stored_first {m : Nat} (hmm : m ∈ [1, 2, 4, 8]) (hle : m ≤ n) :
    memRead a m (s.stored pa n v)
      = .ok (BitVec.ofNat 64 (bytesNumber s.cfg.loadByteOrder (registerBytes v m))) (s.stored pa n v) := by
  have h := memRead_stored (v := v) hn hm hwf hmm (Nat.zero_mod m) (by omega)
  simpa only [BitVec.ofNat_eq_ofNat, BitVec.add_zero, Nat.zero_add, registerBytes] using h

end

/-- The example of R107. -/
theorem memRead_stored_example {s : State} {a : Word} {pa : Nat} (hm : inMemory s.cfg a 4 pa)
    (hwf : s.mem.wf = true) :
    ∃ t, memWrite a 4 0x11223344#64 s = .ok () t
      ∧ (s.cfg.loadByteOrder = .big →
        memRead a 4 t = .ok 0x44332211#64 t ∧ memRead a 2 t = .ok 0x4433#64 t
          ∧ memRead (a + 2#64) 2 t = .ok 0x2211#64 t ∧ memRead a 1 t = .ok 0x44#64 t
          ∧ memRead (a + 3#64) 1 t = .ok 0x11#64 t)
      ∧ (s.cfg.loadByteOrder = .little →
        memRead a 4 t = .ok 0x11223344#64 t ∧ memRead a 2 t = .ok 0x3344#64 t
          ∧ memRead a 1 t = .ok 0x44#64 t) := by
  have hfirst {m : Nat} := memRead_stored_first (v := 0x11223344#64) (m := m) (by decide) hm hwf
  have hinside {m k : Nat} := memRead_stored (v := 0x11223344#64) (m := m) (k := k) (by decide) hm hwf
  refine ⟨s.stored pa 4 0x11223344#64, memWrite_stored hm _, fun ho => ?_, fun ho => ?_⟩
  · rw [ho] at hfirst hinside
    exact ⟨hfirst (by decide) (by decide), hfirst (by decide) (by decide),
      hinside (k := 2) (by decide) (by decide) (by decide), hfirst (by decide) (by decide),
      hinside (k := 3) (by decide) (by decide) (by decide)⟩
  · rw [ho] at hfirst
    exact ⟨hfirst (by decide) (by decide), hfirst (by decide) (by decide), hfirst (by decide) (by decide)⟩

/-- Settles O16: the bytes stored are those of the value, so a load sees the number they form. -/
theorem storeThenLoad : Obligations.StoreThenLoad := by
  refine ⟨fun s a n pa v hn hm hwf => ?_, fun s a pa hm hwf => memRead_stored_example hm hwf⟩
  have hwhole := memRead_stored_first (v := v) hn hm hwf hn le_rfl
  refine ⟨s.stored pa n v, memWrite_stored hm v, rfl, fun k hk => rowByte_stored hn hm hwf hk,
    fun m hmm k hk hkm => memRead_stored hn hm hwf hmm hk hkm, fun ho => ?_, fun ho => ⟨?_, ?_, ?_⟩⟩
  · rw [hwhole, ho, ← storeBytes_register, bytesNumber_little_storeBytes]
  · rintro rfl
    rw [hwhole, ho, ← BitVec.ofNat_toNat, ← bytesNumber_big_two]
    rfl
  · rintro rfl
    rw [hwhole, ho, ← BitVec.ofNat_toNat, ← bytesNumber_big_four]
    rfl
  · rintro rfl
    rw [hwhole, ho]
    exact congrArg (Access.ok · _)
      ((congrArg (BitVec.ofNat 64) (bytesNumber_big_eight ..)).trans
        ((BitVec.ofNat_toNat 64 _).trans (BitVec.setWidth_eq _)))

/-! ## The integer loads (41_load_store.md R220, R224 to R230) -/

/-- A load or a store moves at most 8 bytes. -/
theorem bytesOf_le (b : Bits) : bytesOf b ≤ 8 := by cases b <;> decide

/-- What a register receives of a signed load is the number loaded, with its sign. -/
theorem extend_signed (b : Bits) (x : Nat) :
    extend ⟨b, .s⟩ (BitVec.ofNat 64 x) = (BitVec.ofNat (8 * bytesOf b) x).signExtend 64 := by
  cases b with
  | b8 => exact congrArg (BitVec.signExtend 64) (BitVec.setWidth_ofNat_of_le (by decide) x)
  | b16 => exact congrArg (BitVec.signExtend 64) (BitVec.setWidth_ofNat_of_le (by decide) x)
  | b32 => exact congrArg (BitVec.signExtend 64) (BitVec.setWidth_ofNat_of_le (by decide) x)
  | b64 => exact (BitVec.signExtend_eq _).symm

theorem setWidth_setWidth_ofNat {k x : Nat} (hk : k ≤ 64) (hx : x < 2 ^ k) :
    ((BitVec.ofNat 64 x).setWidth k).setWidth 64 = BitVec.ofNat 64 x := by
  rw [BitVec.setWidth_ofNat_of_le hk, BitVec.setWidth_ofNat_of_le_of_lt hk hx]

/-- What a register receives of an unsigned load is the number loaded. -/
theorem extend_unsigned (b : Bits) {x : Nat} (hx : x < 256 ^ bytesOf b) :
    extend ⟨b, .z⟩ (BitVec.ofNat 64 x) = BitVec.ofNat 64 x := by
  cases b with
  | b8 => exact setWidth_setWidth_ofNat (by decide) hx
  | b16 => exact setWidth_setWidth_ofNat (by decide) hx
  | b32 => exact setWidth_setWidth_ofNat (by decide) hx
  | b64 => rfl

/-- A load of a general register, from what the extension makes of the number loaded. -/
theorem loadsRegister_extend {i : Instr} {s : State} {base rt : RegIdx} {offset : BitVec 16} {b : Bits} {e : Ext}
    {value : Nat → Word} (hv : ∀ x < 256 ^ bytesOf b, extend ⟨b, e⟩ (BitVec.ofNat 64 x) = value x)
    (hi : ∀ s, exec i s = finish (runLoad (loadOp b e (.g rt) base offset) s)) :
    LoadsRegister i s (s.accessAddr base offset) (bytesOf b) rt value :=
  loadsRegister_of i (loadOp b e (.g rt) base offset) s base rt _ _ _ hi rfl rfl rfl rfl rfl (bytesOf_le b) hv

/-- Settles O36: each load is its width and its extension. -/
theorem integerLoads : Obligations.IntegerLoads := fun _ _ _ _ =>
  ⟨loadsRegister_extend (fun x _ => extend_signed .b8 x) fun _ => rfl,
    loadsRegister_extend (b := .b8) (fun _ => extend_unsigned .b8) fun _ => rfl,
    loadsRegister_extend (fun x _ => extend_signed .b16 x) fun _ => rfl,
    loadsRegister_extend (b := .b16) (fun _ => extend_unsigned .b16) fun _ => rfl,
    loadsRegister_extend (fun x _ => extend_signed .b32 x) fun _ => rfl,
    loadsRegister_extend (b := .b32) (fun _ => extend_unsigned .b32) fun _ => rfl,
    loadsRegister_extend (b := .b64) (e := .s) (fun _ _ => rfl) fun _ => rfl⟩

/-! ## The integer stores (R221, R242 to R245) -/

/-- A store of the low bytes of a register, of either bank. -/
theorem stores_register {i : Instr} {s : State} {base : RegIdx} {offset : BitVec 16} (b : Bits) (r : DataReg)
    (hcu : dataRegIsCop1 r = false ∨ s.cu1 = true)
    (hi : ∀ s, exec i s = finish (runStore (storeOp b r base offset) s)) :
    Stores i s (s.accessAddr base offset) (bytesOf b) (s.readData r) :=
  stores_of i (storeOp b r base offset) s _ hi rfl rfl hcu rfl (bytesOf_le b) rfl rfl

/-- Settles O38: each store is its width. -/
theorem integerStores : Obligations.IntegerStores := fun _ _ rt _ =>
  ⟨stores_register .b8 (.g rt) (.inl rfl) fun _ => rfl, stores_register .b16 (.g rt) (.inl rfl) fun _ => rfl,
    stores_register .b32 (.g rt) (.inl rfl) fun _ => rfl, stores_register .b64 (.g rt) (.inl rfl) fun _ => rfl⟩

/-! ## The floating-point loads and stores (R223, R238, R239, R246, R247) -/

/-- A floating-point register written after an access that may have moved the collaborator. -/
theorem frame_writeF_pi (s : State) (p : Peripheral) (ft : RegIdx) (v : FprWord) {cp : Bool}
    (hp : cp = true ∨ p = s.pi) :
    Frame { f := [ft], pi := cp } s (({ s with pi := p } : State).writeF ft v).advance where
  x := fun _ _ => rfl
  f := fun _ hi => State.readF_writeF_ne _ v (by simpa using hi)
  c0 := fun _ _ => rfl
  hi := fun _ => rfl
  lo := fun _ => rfl
  llbit := fun _ => rfl
  fcsr := fun _ => rfl
  mem := fun _ _ => rfl
  pi := fun h => hp.resolve_left (Bool.eq_false_iff.mp h)
  fcr0 := rfl
  phase := rfl
  cart := rfl
  cfg := rfl

/-- A load of a floating-point register: `value` is what the register receives, before it is held in its
width, from the number the bytes form. -/
theorem loads_float {i : Instr} {s : State} {base ft : RegIdx} {offset : BitVec 16} (b : Bits) (e : Ext)
    (value : Nat → FprWord) (hcu : s.cu1 = true)
    (hi : ∀ s, exec i s = finish (runLoad (loadOp b e (.f ft) base offset) s))
    (hv : ∀ p x, ({ s with pi := p } : State).writeData (.f ft) ⟨b, e⟩ (BitVec.ofNat 64 x)
      = ({ s with pi := p } : State).writeF ft (value x)) :
    Loads i s (s.accessAddr base offset) (bytesOf b) { f := [ft] }
      (fun bytes t => t.readF ft = fitWidth s.cfg.fprWidth (value (bytesNumber s.cfg.loadByteOrder bytes))) := by
  refine loads_of i (loadOp b e (.f ft) base offset) s base _ _ _ _ hi rfl rfl (.inr hcu) rfl rfl ?_ rfl
  intro bytes p hlen d hd
  rw [loadValue_number _ _ (hlen.trans_le (bytesOf_le b))]
  dsimp only [loadOp]
  rw [hv]
  exact ⟨frame_writeF_pi s p ft _ hd, State.readF_writeF_self _ _ _⟩

/-- What `LWC1` writes: the upper half of the register as it was, over the number loaded. -/
theorem writeData_float32 (s : State) (ft : RegIdx) (e : Ext) (x : Nat) :
    s.writeData (.f ft) ⟨.b32, e⟩ (BitVec.ofNat 64 x)
      = s.writeF ft ((s.readF ft).extractLsb' 32 32 ++ BitVec.ofNat 32 x) := by
  show s.writeF ft (insertField (s.readF ft) 0 ((BitVec.ofNat 64 x).setWidth 32)) = _
  rw [upper_low, BitVec.setWidth_ofNat_of_le (by decide)]

/-- Settles O37: a load writes the register as its width says, a store is that of the integer registers. -/
theorem floatLoadsAndStores : Obligations.FloatLoadsAndStores := fun s _ ft _ hcu =>
  ⟨loads_float .b32 .z (fun x => (s.readF ft).extractLsb' 32 32 ++ BitVec.ofNat 32 x) hcu (fun _ => rfl)
      fun _ x => writeData_float32 _ ft .z x,
    loads_float .b64 .s (BitVec.ofNat 64) hcu (fun _ => rfl) fun _ _ => rfl,
    stores_register .b32 (.f ft) (.inr hcu) fun _ => rfl,
    stores_register .b64 (.f ft) (.inr hcu) fun _ => rfl⟩

end Sys2Proof.Machine

/-! # The encoding (30_encoding.md)

`decodeWord` and `encode` are related through the fields of a word: what the fields of an encoded form are,
and which form a word has on the bits an instruction uses. Which instruction a word is depends on its selector
bits only (`selectorMask`); those are the bits the opcode table compares. -/

namespace Sys2Proof.Laws.IrWellFormed

/-- Every instruction is well formed, constructor by constructor. -/
theorem instr_wf (i : Instr) : i.wf = true :=
  i.casesOn (motive := Statement)
    lb lbu lh lhu lw lwu ld lwl lwr ldl ldr ll lld lwc1 ldc1 lui sb sh sw sd swl swr sdl sdr sc scd
    swc1 sdc1 addi addiu slti sltiu andi ori xori daddi daddiu beq bne beql bnel blez bgtz blezl
    bgtzl cache j jal sll srl sra dsll dsrl dsra dsll32 dsrl32 dsra32 sllv srlv srav dsllv dsrlv
    dsrav add addu sub subu and or xor nor slt sltu dadd daddu dsub dsubu mult multu div divu dmult
    dmultu ddiv ddivu mfhi mflo mthi mtlo jr jalr syscall brk sync tge tgeu tlt tltu teq tne bltz
    bgez bltzl bgezl bltzal bgezal bltzall bgezall tgei tgeiu tlti tltiu teqi tnei mfc0 dmfc0 mtc0
    dmtc0 tlbr tlbwi tlbwr tlbp eret mfc1 dmfc1 cfc1 mtc1 dmtc1 ctc1 bc1f bc1t bc1fl bc1tl cop1S
    cop1D cop1W cop1L

end Sys2Proof.Laws.IrWellFormed

namespace Sys2Proof

/-! ## The fields of the forms (R131 to R133) -/

section
variable (op funct : BitVec 6) (rs rt rd : RegIdx) (sel sa : BitVec 5) (imm : BitVec 16)
  (index : BitVec 26) (code : BitVec 20)

@[simp] theorem fields_iSelForm :
    fOp (iSelForm op rs sel imm) = op ∧ fRsBits (iSelForm op rs sel imm) = BitVec.ofFin (w := 5) rs
      ∧ fRs (iSelForm op rs sel imm) = rs ∧ fRtBits (iSelForm op rs sel imm) = sel
      ∧ fImm (iSelForm op rs sel imm) = imm := by
  unfold iSelForm fOp fRsBits fRs fRtBits fImm
  refine ⟨?_, ?_, ?_, ?_, BitVec.extractLsb'_append_eq_right⟩
  all_goals repeat rw [BitVec.extractLsb'_append_eq_of_le (by decide)]
  · exact BitVec.extractLsb'_eq_self
  all_goals rw [BitVec.extractLsb'_append_eq_right]

@[simp] theorem fields_iForm :
    fOp (iForm op rs rt imm) = op ∧ fRs (iForm op rs rt imm) = rs ∧ fRt (iForm op rs rt imm) = rt
      ∧ fImm (iForm op rs rt imm) = imm := by
  obtain ⟨hop, -, hrs, hrt, himm⟩ := fields_iSelForm op rs (BitVec.ofFin (w := 5) rt) imm
  exact ⟨hop, hrs, congrArg BitVec.toFin hrt, himm⟩

@[simp] theorem fields_rForm :
    fOp (rForm rs rt rd sa funct) = 0#6 ∧ fRs (rForm rs rt rd sa funct) = rs
      ∧ fRt (rForm rs rt rd sa funct) = rt ∧ fRd (rForm rs rt rd sa funct) = rd
      ∧ fSa (rForm rs rt rd sa funct) = sa ∧ fFunct (rForm rs rt rd sa funct) = funct := by
  unfold rForm fOp fRs fRt fRd fSa fFunct
  refine ⟨?_, ?_, ?_, ?_, ?_, BitVec.extractLsb'_append_eq_right⟩
  all_goals repeat rw [BitVec.extractLsb'_append_eq_of_le (by decide)]
  · exact BitVec.extractLsb'_eq_self
  all_goals rw [BitVec.extractLsb'_append_eq_right]

@[simp] theorem fields_jForm : fOp (jForm op index) = op ∧ fIndex (jForm op index) = index :=
  ⟨BitVec.extractLsb'_append_eq_left, BitVec.extractLsb'_append_eq_right⟩

@[simp] theorem fields_codeForm :
    fOp (codeForm code funct) = 0#6 ∧ fCode (codeForm code funct) = code
      ∧ fFunct (codeForm code funct) = funct := by
  unfold codeForm fOp fCode fFunct
  refine ⟨?_, ?_, BitVec.extractLsb'_append_eq_right⟩
  all_goals repeat rw [BitVec.extractLsb'_append_eq_of_le (by decide)]
  · exact BitVec.extractLsb'_eq_self
  · rw [BitVec.extractLsb'_append_eq_right]

@[simp] theorem fields_copForm :
    fOp (copForm op sel rt rd) = op ∧ fRsBits (copForm op sel rt rd) = sel
      ∧ fRt (copForm op sel rt rd) = rt ∧ fRd (copForm op sel rt rd) = rd := by
  unfold copForm fOp fRsBits fRt fRd
  refine ⟨?_, ?_, ?_, ?_⟩
  all_goals repeat rw [BitVec.extractLsb'_append_eq_of_le (by decide)]
  · exact BitVec.extractLsb'_eq_self
  all_goals rw [BitVec.extractLsb'_append_eq_right]

@[simp] theorem fields_coForm :
    fOp (coForm funct) = 0x10#6 ∧ fRsBits (coForm funct) = 0x10#5 ∧ fFunct (coForm funct) = funct := by
  revert funct
  decide

end

/-! ## The form of a word on some of its bits -/

/-- All bits of a field, or none. -/
def fieldMask (used : Bool) (n : Nat) : BitVec n := if used then BitVec.allOnes n else 0#n

theorem and_fieldMask (used : Bool) {n : Nat} (x : BitVec n) :
    x &&& fieldMask used n = if used then x else 0#n := by
  cases used
  · exact BitVec.and_zero
  · exact BitVec.and_allOnes

section
variable (w : InstrWord)

/-- Bit 25, which selects the second map of COP0 (R154), is the top bit of the `rs` field. -/
theorem getLsbD_25 : w.getLsbD 25 = (fRsBits w).getLsbD 4 := by
  simp [fRsBits]

theorem and_iFields (a : BitVec 6) (b c : BitVec 5) (d : BitVec 16) :
    w &&& (a ++ b ++ c ++ d) = (fOp w &&& a) ++ (fRsBits w &&& b) ++ (fRtBits w &&& c) ++ (fImm w &&& d) := by
  have hw : fOp w ++ fRsBits w ++ fRtBits w ++ fImm w = w := by
    unfold fOp fRsBits fRtBits fImm
    rw [BitVec.extractLsb'_append_extractLsb'_eq_extractLsb' (by rfl),
      BitVec.extractLsb'_append_extractLsb'_eq_extractLsb' (by rfl)]
    exact BitVec.extractLsb'_append_extractLsb'
  rw [← BitVec.and_append, ← BitVec.and_append, ← BitVec.and_append, hw]

theorem and_rFields (a : BitVec 6) (b c d e : BitVec 5) (f : BitVec 6) :
    w &&& (a ++ b ++ c ++ d ++ e ++ f) = (fOp w &&& a) ++ (fRsBits w &&& b) ++ (fRtBits w &&& c)
      ++ (BitVec.ofFin (w := 5) (fRd w) &&& d) ++ (fSa w &&& e) ++ (fFunct w &&& f) := by
  have hw : fOp w ++ fRsBits w ++ fRtBits w ++ BitVec.ofFin (w := 5) (fRd w) ++ fSa w ++ fFunct w = w := by
    unfold fOp fRsBits fRtBits fRd fSa fFunct
    rw [BitVec.extractLsb'_append_extractLsb'_eq_extractLsb' (by rfl),
      BitVec.extractLsb'_append_extractLsb'_eq_extractLsb' (by rfl),
      BitVec.extractLsb'_append_extractLsb'_eq_extractLsb' (by rfl),
      BitVec.extractLsb'_append_extractLsb'_eq_extractLsb' (by rfl)]
    exact BitVec.extractLsb'_append_extractLsb'
  rw [← BitVec.and_append, ← BitVec.and_append, ← BitVec.and_append, ← BitVec.and_append,
    ← BitVec.and_append, hw]

/-! A word on its opcode, its selectors and the fields the flags name is the form of those fields, with 0 in the
others. -/

theorem and_iForm (rs rt imm : Bool) :
    w &&& (BitVec.allOnes 6 ++ fieldMask rs 5 ++ fieldMask rt 5 ++ fieldMask imm 16)
      = iForm (fOp w) (if rs then fRs w else 0) (if rt then fRt w else 0) (if imm then fImm w else 0#16) := by
  simp only [and_iFields, and_fieldMask, BitVec.and_allOnes]
  cases rs <;> cases rt <;> rfl

theorem and_iSelForm (rs imm : Bool) :
    w &&& (BitVec.allOnes 6 ++ fieldMask rs 5 ++ BitVec.allOnes 5 ++ fieldMask imm 16)
      = iSelForm (fOp w) (if rs then fRs w else 0) (fRtBits w) (if imm then fImm w else 0#16) := by
  simp only [and_iFields, and_fieldMask, BitVec.and_allOnes]
  cases rs <;> rfl

theorem and_rForm (hop : fOp w = 0#6) (rs rt rd sa : Bool) :
    w &&& (BitVec.allOnes 6 ++ fieldMask rs 5 ++ fieldMask rt 5 ++ fieldMask rd 5 ++ fieldMask sa 5
        ++ BitVec.allOnes 6)
      = rForm (if rs then fRs w else 0) (if rt then fRt w else 0) (if rd then fRd w else 0)
        (if sa then fSa w else 0#5) (fFunct w) := by
  simp only [and_rFields, and_fieldMask, BitVec.and_allOnes, hop]
  cases rs <;> cases rt <;> cases rd <;> rfl

theorem and_copForm (rt rd : Bool) :
    w &&& (BitVec.allOnes 6 ++ BitVec.allOnes 5 ++ fieldMask rt 5 ++ fieldMask rd 5 ++ 0#5 ++ 0#6)
      = copForm (fOp w) (fRsBits w) (if rt then fRt w else 0) (if rd then fRd w else 0) := by
  simp only [and_rFields, and_fieldMask, BitVec.and_allOnes, BitVec.and_zero]
  rw [BitVec.append_assoc]
  cases rt <;> cases rd <;> rfl

theorem and_coForm (hop : fOp w = 0x10#6) (hco : w.getLsbD 25 = true) :
    w &&& 0xFE00003F#32 = coForm (fFunct w) := by
  have hrs : ∀ x : BitVec 5, x.getLsbD 4 = true → x &&& 0x10#5 = 0x10#5 := by decide
  refine (and_rFields w (.allOnes 6) 0x10#5 0#5 0#5 0#5 (.allOnes 6)).trans ?_
  simp only [BitVec.and_allOnes, BitVec.and_zero, hop, hrs _ ((getLsbD_25 w).symm.trans hco)]
  rfl

theorem jForm_fields : jForm (fOp w) (fIndex w) = w :=
  BitVec.extractLsb'_append_extractLsb' (w := 6) (len := 26)

theorem codeForm_fields (hop : fOp w = 0#6) : codeForm (fCode w) (fFunct w) = w := by
  rw [codeForm, ← hop]
  unfold fOp fCode fFunct
  rw [BitVec.extractLsb'_append_extractLsb'_eq_extractLsb' (by rfl)]
  exact BitVec.extractLsb'_append_extractLsb' (w := 26) (len := 6)

end

/-! ## A decoded word on the bits its instruction uses (R156) -/

section
variable {w : InstrWord} {i : Instr}

theorem and_usedBits_of_decodeSpecial (hop : fOp w = 0x00#6) (h : decodeSpecial w = some i) :
    w &&& usedBits i = encode i := by
  have hshift : w &&& 0xFC1FFFFF#32 = _ := and_rForm w hop false true true true
  have hrrr : w &&& 0xFFFFF83F#32 = _ := and_rForm w hop true true true false
  have hrr : w &&& 0xFFFF003F#32 = _ := and_rForm w hop true true false false
  have hrd : w &&& 0xFC00F83F#32 = _ := and_rForm w hop false false true false
  have hrs : w &&& 0xFFE0003F#32 = _ := and_rForm w hop true false false false
  have hrsrd : w &&& 0xFFE0F83F#32 = _ := and_rForm w hop true false true false
  have hnone : w &&& 0xFC00003F#32 = _ := and_rForm w hop false false false false
  have hcode : w &&& 0xFFFFFFFF#32 = _ := BitVec.and_allOnes.trans (codeForm_fields w hop).symm
  unfold decodeSpecial at h
  split at h
  all_goals cases h
  all_goals rename_i hf
  all_goals simp only [usedBits, encode, hshift, hrrr, hrr, hrd, hrs, hrsrd, hnone, hcode, hf]
  all_goals rfl

theorem and_usedBits_of_decodeRegimm (hop : fOp w = 0x01#6) (h : decodeRegimm w = some i) :
    w &&& usedBits i = encode i := by
  have hall : w &&& 0xFFFFFFFF#32 = _ := and_iSelForm w true true
  unfold decodeRegimm at h
  split at h
  all_goals cases h
  all_goals rename_i hrt
  all_goals exact hall.trans (by rw [hop, hrt]; rfl)

theorem and_usedBits_of_decodeCop0 (hop : fOp w = 0x10#6) (h : decodeCop0 w = some i) :
    w &&& usedBits i = encode i := by
  unfold decodeCop0 decodeCop0Co at h
  split at h
  next hco =>
    split at h
    all_goals cases h
    all_goals rename_i hf
    all_goals exact (and_coForm w hop hco).trans (by rw [hf]; rfl)
  next =>
    have hmove : w &&& 0xFFFFF800#32 = _ := and_copForm w true true
    split at h
    all_goals cases h
    all_goals rename_i hrs
    all_goals exact hmove.trans (by rw [hop, hrs]; rfl)

theorem and_usedBits_of_decodeCop1 (hop : fOp w = 0x11#6) (h : decodeCop1 w = some i) :
    w &&& usedBits i = encode i := by
  have hmove : w &&& 0xFFFFF800#32 = _ := and_copForm w true true
  have hnone : w &&& 0xFFE00000#32 = _ := and_copForm w false false
  have hall : w &&& 0xFFFFFFFF#32 = _ := and_iSelForm w true true
  unfold decodeCop1 decodeBc1 at h
  split at h
  -- BC, the map within COP1
  case h_7 hrs =>
    have hrs' : fRs w = 8 := congrArg BitVec.toFin hrs
    split at h
    all_goals cases h
    all_goals rename_i hrt
    all_goals exact hall.trans (by rw [hop, hrs', hrt]; rfl)
  all_goals cases h
  all_goals rename_i hrs
  all_goals simp only [usedBits, encode, hmove, hnone, hop, hrs]
  all_goals rfl

/-- The bits an instruction uses are those of its encoding, in every word that decodes to it. -/
theorem and_usedBits_of_decodeWord (h : decodeWord w = some i) : w &&& usedBits i = encode i := by
  have hall : w &&& 0xFFFFFFFF#32 = _ := and_iForm w true true true
  have hrtimm : w &&& 0xFC1FFFFF#32 = _ := and_iForm w false true true
  have hrsimm : w &&& 0xFFE0FFFF#32 = _ := and_iForm w true false true
  have hindex : w &&& 0xFFFFFFFF#32 = _ := BitVec.and_allOnes.trans (jForm_fields w).symm
  unfold decodeWord at h
  split at h
  -- SPECIAL, REGIMM, COP0 and COP1 are maps of their own; J and JAL are the jump forms
  case h_1 hop => exact and_usedBits_of_decodeSpecial hop h
  case h_2 hop => exact and_usedBits_of_decodeRegimm hop h
  case h_17 hop => exact and_usedBits_of_decodeCop0 hop h
  case h_18 hop => exact and_usedBits_of_decodeCop1 hop h
  case h_3 hop | h_4 hop => cases h; exact hindex.trans (by rw [hop]; rfl)
  all_goals cases h
  all_goals rename_i hop
  all_goals simp only [usedBits, encode, hall, hrtimm, hrsimm, hop]
  all_goals rfl

end

/-! ## The selector bits -/

/-- The bits of a word that select its row of the opcode table: the opcode, and the selector of its map. -/
def selectorMask (w : InstrWord) : InstrWord :=
  if fOp w = 0x00#6 then 0xFC00003F#32
  else if fOp w = 0x01#6 then 0xFC1F0000#32
  else if fOp w = 0x10#6 then if (fRsBits w).getLsbD 4 then 0xFE00003F#32 else 0xFFE00000#32
  else if fOp w = 0x11#6 then if fRsBits w = 0x08#5 then 0xFFFF0000#32 else 0xFFE00000#32
  else 0xFC000000#32

/-- The mnemonic and the used bits of an instruction, which its constructor determines. -/
def Instr.kind (i : Instr) : String × InstrWord := (i.mnemonic, usedBits i)

section
variable {v w : InstrWord}

theorem decodeSpecial_kind_congr (hf : fFunct w = fFunct v) :
    (decodeSpecial w).map Instr.kind = (decodeSpecial v).map Instr.kind := by
  unfold decodeSpecial
  rw [hf]
  split <;> rfl

theorem decodeRegimm_kind_congr (hrt : fRtBits w = fRtBits v) :
    (decodeRegimm w).map Instr.kind = (decodeRegimm v).map Instr.kind := by
  unfold decodeRegimm
  rw [hrt]
  split <;> rfl

theorem decodeCop0_kind_congr (hco : w.getLsbD 25 = v.getLsbD 25)
    (hf : v.getLsbD 25 = true → fFunct w = fFunct v)
    (hrs : v.getLsbD 25 = false → fRsBits w = fRsBits v) :
    (decodeCop0 w).map Instr.kind = (decodeCop0 v).map Instr.kind := by
  unfold decodeCop0 decodeCop0Co
  rw [hco]
  split
  next h => rw [hf h]
  next h =>
    rw [hrs (Bool.eq_false_iff.mpr h)]
    split <;> rfl

theorem decodeCop1_kind_congr (hrs : fRsBits w = fRsBits v)
    (hrt : fRsBits v = 0x08#5 → fRtBits w = fRtBits v) :
    (decodeCop1 w).map Instr.kind = (decodeCop1 v).map Instr.kind := by
  unfold decodeCop1 decodeBc1
  rw [hrs]
  split
  -- BC, the map within COP1
  case h_7 h =>
    rw [hrt h]
    split <;> rfl
  all_goals rfl

/-- Two words agree on a field that lies in a mask on which they agree. -/
theorem extractLsb'_congr_of_and {m : InstrWord} (h : w &&& m = v &&& m) {start len : Nat}
    (hm : m.extractLsb' start len = BitVec.allOnes len) :
    w.extractLsb' start len = v.extractLsb' start len := by
  have := congrArg (BitVec.extractLsb' start len) h
  rwa [BitVec.extractLsb'_and, BitVec.extractLsb'_and, hm, BitVec.and_allOnes, BitVec.and_allOnes] at this

theorem getLsbD_congr_of_and {m : InstrWord} (h : w &&& m = v &&& m) {k : Nat} (hm : m.getLsbD k = true) :
    w.getLsbD k = v.getLsbD k := by
  have := congrArg (BitVec.getLsbD · k) h
  rwa [BitVec.getLsbD_and, BitVec.getLsbD_and, hm, Bool.and_true, Bool.and_true] at this

/-- Which row of the opcode table a word belongs to depends on its selector bits only. -/
theorem decodeWord_kind_congr (h : w &&& selectorMask v = v &&& selectorMask v) :
    (decodeWord w).map Instr.kind = (decodeWord v).map Instr.kind := by
  have hop : fOp w = fOp v := extractLsb'_congr_of_and h (by unfold selectorMask; split_ifs <;> rfl)
  unfold decodeWord
  rw [hop]
  split
  -- SPECIAL, REGIMM, COP0, COP1
  case h_1 hv =>
    exact decodeSpecial_kind_congr (extractLsb'_congr_of_and h (by simp [selectorMask, hv]))
  case h_2 hv =>
    exact decodeRegimm_kind_congr (extractLsb'_congr_of_and h (by simp [selectorMask, hv]))
  case h_17 hv =>
    rw [selectorMask, if_neg (by simp [hv]), if_neg (by simp [hv]), if_pos hv, ← getLsbD_25] at h
    refine decodeCop0_kind_congr (getLsbD_congr_of_and h ?_) (fun hco => ?_) (fun hco => ?_)
    · split_ifs <;> rfl
    · exact extractLsb'_congr_of_and h (by rw [if_pos hco]; rfl)
    · exact extractLsb'_congr_of_and h (by rw [if_neg (Bool.eq_false_iff.mp hco)]; rfl)
  case h_18 hv =>
    rw [selectorMask, if_neg (by simp [hv]), if_neg (by simp [hv]), if_neg (by simp [hv]), if_pos hv] at h
    refine decodeCop1_kind_congr (extractLsb'_congr_of_and h ?_) (fun hrs => ?_)
    · split_ifs <;> rfl
    · exact extractLsb'_congr_of_and h (by rw [if_pos hrs]; rfl)
  all_goals rfl

end

/-- The selector bits of an encoding are among the bits the instruction uses. -/
theorem usedBits_and_selectorMask (i : Instr) :
    usedBits i &&& selectorMask (encode i) = selectorMask (encode i) := by
  cases i <;> simp [encode, usedBits, selectorMask]

/-- A word with the used bits of an encoding has its selector bits. -/
theorem and_selectorMask_of_and_usedBits {i : Instr} {w : InstrWord} (h : w &&& usedBits i = encode i) :
    w &&& selectorMask (encode i) = encode i &&& selectorMask (encode i) :=
  calc w &&& selectorMask (encode i)
    _ = w &&& usedBits i &&& selectorMask (encode i) := by
      rw [BitVec.and_assoc, usedBits_and_selectorMask]
    _ = encode i &&& selectorMask (encode i) := by rw [h]

/-! ## Decoding an encoded word -/

section
variable {w : InstrWord}

theorem decodeWord_of_special (hop : fOp w = 0x00#6) : decodeWord w = decodeSpecial w := by
  rw [decodeWord, hop]
  rfl

theorem decodeWord_of_regimm (hop : fOp w = 0x01#6) : decodeWord w = decodeRegimm w := by
  rw [decodeWord, hop]
  rfl

theorem decodeWord_of_cop0 (hop : fOp w = 0x10#6) : decodeWord w = decodeCop0 w := by
  rw [decodeWord, hop]
  rfl

theorem decodeWord_of_cop1 (hop : fOp w = 0x11#6) : decodeWord w = decodeCop1 w := by
  rw [decodeWord, hop]
  rfl

end

theorem getLsbD_25_copForm (op : BitVec 6) (sel : BitVec 5) (rt rd : RegIdx) :
    (copForm op sel rt rd).getLsbD 25 = sel.getLsbD 4 := by
  obtain ⟨-, hsel, -, -⟩ := fields_copForm op rt rd sel
  rw [getLsbD_25, hsel]

/-- An immediate-form word decodes as every word with its fields does. -/
theorem decodeWord_iForm {op : BitVec 6} {rs rt : RegIdx} {imm : BitVec 16} {i : Instr}
    (h : ∀ w, fOp w = op → fRs w = rs → fRt w = rt → fImm w = imm → decodeWord w = some i) :
    decodeWord (iForm op rs rt imm) = some i := by
  apply h <;> simp

/-- A register-form word decodes as every word with its fields does. -/
theorem decodeWord_rForm {rs rt rd : RegIdx} {sa : BitVec 5} {funct : BitVec 6} {i : Instr}
    (h : ∀ w, fFunct w = funct → fRs w = rs → fRt w = rt → fRd w = rd → fSa w = sa →
      decodeSpecial w = some i) :
    decodeWord (rForm rs rt rd sa funct) = some i := by
  rw [decodeWord_of_special (by simp)]
  apply h <;> simp

theorem decodeWord_encode (i : Instr) : decodeWord (encode i) = some i := by
  cases i
  case lb | lbu | lh | lhu | lw | lwu | ld | lwl | lwr | ldl | ldr | ll | lld | lwc1 | ldc1 | lui | sb
      | sh | sw | sd | swl | swr | sdl | sdr | sc | scd | swc1 | sdc1 | addi | addiu | slti | sltiu
      | andi | ori | xori | daddi | daddiu | beq | bne | beql | bnel | blez | bgtz | blezl | bgtzl =>
    refine decodeWord_iForm fun w hop hrs hrt himm => ?_
    subst_vars
    rw [decodeWord, hop]
    rfl
  case cache | j | jal => simp [encode, decodeWord]
  case syscall | brk => simp [encode, decodeWord_of_special, decodeSpecial]
  case bltz | bgez | bltzl | bgezl | bltzal | bgezal | bltzall | bgezall | tgei | tgeiu | tlti | tltiu
      | teqi | tnei => simp [encode, decodeWord_of_regimm, decodeRegimm]
  case mfc0 | dmfc0 | mtc0 | dmtc0 =>
    simp [encode, decodeWord_of_cop0, decodeCop0, getLsbD_25_copForm, -BitVec.getLsbD_eq_getElem]
  case mfc1 | dmfc1 | cfc1 | mtc1 | dmtc1 | ctc1 => simp [encode, decodeWord_of_cop1, decodeCop1]
  case bc1f | bc1t | bc1fl | bc1tl => simp [encode, decodeWord_of_cop1, decodeCop1, decodeBc1]
  case tlbr | tlbwi | tlbwr | tlbp | eret | cop1S | cop1D | cop1W | cop1L => decide
  all_goals
    refine decodeWord_rForm fun w hf hrs hrt hrd hsa => ?_
    subst_vars
    rw [decodeSpecial, hf]
    rfl

/-- A word decodes to an instruction exactly when it agrees with the encoding on the bits the instruction
uses. -/
theorem decodeWord_eq_some_iff (i : Instr) (w : InstrWord) :
    decodeWord w = some i ↔ w &&& usedBits i = encode i := by
  refine ⟨and_usedBits_of_decodeWord, fun h => ?_⟩
  have hkind := decodeWord_kind_congr (and_selectorMask_of_and_usedBits h)
  rw [decodeWord_encode, Option.map_some, Option.map_eq_some_iff] at hkind
  obtain ⟨j, hj, hji⟩ := hkind
  have hused : usedBits j = usedBits i := congrArg Prod.snd hji
  have henc : encode j = encode i := by rw [← and_usedBits_of_decodeWord hj, hused, h]
  rw [hj, ← decodeWord_encode j, henc, decodeWord_encode]

/-! ## Bytes and table words (20_memory.md R103) -/

theorem wordOfBytes_bytesOfWord (w : InstrWord) :
    wordOfBytes (w.extractLsb' 24 8) (w.extractLsb' 16 8) (w.extractLsb' 8 8) (w.extractLsb' 0 8) = w := by
  unfold wordOfBytes
  rw [BitVec.extractLsb'_append_extractLsb'_eq_extractLsb' (by rfl),
    BitVec.extractLsb'_append_extractLsb'_eq_extractLsb' (by rfl)]
  exact BitVec.extractLsb'_append_extractLsb' (w := 24) (len := 8)

theorem decodeBytes_bytesOfWord {w : InstrWord} {i : Instr} (h : decodeWord w = some i) (rest : List Byte) :
    decodeBytes (bytesOfWord w ++ rest) = .instr i rest := by
  simp [bytesOfWord, decodeBytes, wordOfBytes_bytesOfWord, h]

theorem decodeTableWord_toNat (w : InstrWord) : decodeTableWord 32 w.toNat = decodeWord w := by
  have hw : BitVec.ofNat 32 (w.toNat % 2 ^ 32) = w := by
    rw [Nat.mod_eq_of_lt w.isLt, BitVec.ofNat_toNat, BitVec.setWidth_eq]
  simp only [decodeTableWord, hw, bytesOfWord, decodeBytes, wordOfBytes_bytesOfWord]
  cases decodeWord w <;> rfl

/-- Settles O1: the word of an instruction decodes to it, constructor by constructor; its bytes form that word
again. -/
theorem decodeEncode : Obligations.DecodeEncode := fun i =>
  ⟨Laws.IrWellFormed.instr_wf i, decodeWord_encode i, decodeBytes_bytesOfWord (decodeWord_encode i),
    (decodeTableWord_toNat _).trans (decodeWord_encode i)⟩

/-- Settles O2: a decoded word has the form of the encoding on the used bits; conversely those bits hold the
selector bits, which fix the constructor. -/
theorem ignoredBits : Obligations.IgnoredBits := decodeWord_eq_some_iff

/-! ## The opcode table (R159, R164) -/

/-- The row of an instruction: its encoding on the selector bits. -/
def Instr.row (i : Instr) : OpcodeRow :=
  { mnemonic := i.mnemonic, pattern := encode i &&& selectorMask (encode i), mask := selectorMask (encode i) }

theorem row_mem_opcodeTable (i : Instr) : i.row ∈ opcodeTable := by
  have hop (w) : w &&& 0xFC000000#32 = _ := and_iForm w false false false
  have hrt (w) : w &&& 0xFC1F0000#32 = _ := and_iSelForm w false false
  have hrsrt (w) : w &&& 0xFFFF0000#32 = _ := and_iSelForm w true false
  have hrs (w) : w &&& 0xFFE00000#32 = _ := and_copForm w false false
  have hf (w) (h : fOp w = 0#6) : w &&& 0xFC00003F#32 = _ := and_rForm w h false false false false
  cases i <;> simp [Instr.row, encode, selectorMask, hop, hrt, hrsrt, hrs, hf, Instr.mnemonic] <;> decide

theorem matches_row_of_decodeWord {w : InstrWord} {i : Instr} (h : decodeWord w = some i) :
    i.row.matches w = true :=
  beq_iff_eq.mpr (and_selectorMask_of_and_usedBits (and_usedBits_of_decodeWord h))

/-- The pattern of a row is a word of that row, and its mask holds the selector bits. -/
theorem opcodeTable_decodes : ∀ r ∈ opcodeTable, r.mask = selectorMask r.pattern
    ∧ r.pattern &&& r.mask = r.pattern ∧ (decodeWord r.pattern).map Instr.mnemonic = some r.mnemonic := by
  decide +kernel

theorem decodeWord_of_matches {w : InstrWord} {r : OpcodeRow} (hr : r ∈ opcodeTable)
    (h : r.matches w = true) : (decodeWord w).map Instr.mnemonic = some r.mnemonic := by
  obtain ⟨hmask, hpattern, hdecode⟩ := opcodeTable_decodes r hr
  have hw : w &&& r.mask = r.pattern := by simpa [OpcodeRow.matches] using h
  have hkind : (decodeWord w).map Instr.kind = (decodeWord r.pattern).map Instr.kind :=
    decodeWord_kind_congr (by rw [← hmask, hw, hpattern])
  have := congrArg (Option.map Prod.fst) hkind
  rw [Option.map_map, Option.map_map] at this
  exact this.trans hdecode

theorem opcodeTable_mnemonics_nodup : (opcodeTable.map OpcodeRow.mnemonic).Nodup := by
  decide +kernel

/-- Two rows that match one word have the mnemonic it decodes to, so they are one row. -/
theorem opcodeTable_disjoint (w : InstrWord) :
    opcodeTable.Pairwise fun r q => ¬ (r.matches w = true ∧ q.matches w = true) := by
  refine (List.pairwise_map.mp opcodeTable_mnemonics_nodup).imp_of_mem fun hr hq hne => ?_
  rintro ⟨hrw, hqw⟩
  exact hne (Option.some.inj ((decodeWord_of_matches hr hrw).symm.trans (decodeWord_of_matches hq hqw)))

theorem decodeWord_eq_find (w : InstrWord) : (decodeWord w).map Instr.mnemonic
    = (opcodeTable.find? fun r => r.matches w).map OpcodeRow.mnemonic := by
  cases hfind : opcodeTable.find? fun r => r.matches w with
  | some r =>
    have hmatches : r.matches w = true := List.find?_some (p := (OpcodeRow.matches · w)) hfind
    exact decodeWord_of_matches (List.mem_of_find?_eq_some hfind) hmatches
  | none =>
    cases hw : decodeWord w with
    | none => rfl
    | some i =>
      exact absurd (matches_row_of_decodeWord hw) (List.find?_eq_none.mp hfind _ (row_mem_opcodeTable i))

/-- Settles O5: a row decodes as its pattern does, and every instruction has a row. -/
theorem opcodeTable_agrees : Obligations.OpcodeTable :=
  ⟨rfl, opcodeTable_mnemonics_nodup, opcodeTable_disjoint, decodeWord_eq_find⟩

end Sys2Proof

namespace Sys2Proof

/-! ## The reserved words (R157)

Whether a map of the decoder has a row for a word depends on the selector of the map, so each list below is
compared with the map at one word for every selector. -/

/-- Of two results with the same kind both are an instruction or neither is. -/
theorem eq_none_congr {o p : Option Instr} (h : o.map Instr.kind = p.map Instr.kind) : o = none ↔ p = none := by
  rw [← Option.map_eq_none_iff (f := Instr.kind), h, Option.map_eq_none_iff]

section
variable {w : InstrWord}

theorem decodeSpecial_eq_none_iff : decodeSpecial w = none ↔ fFunct w ∈
    [0x01#6, 0x05#6, 0x0A#6, 0x0B#6, 0x0E#6, 0x15#6, 0x28#6, 0x29#6, 0x35#6, 0x37#6, 0x39#6, 0x3D#6] := by
  rw [eq_none_congr (decodeSpecial_kind_congr (v := rForm 0 0 0 0#5 (fFunct w)) (by simp))]
  generalize fFunct w = f
  revert f
  decide +kernel

theorem decodeRegimm_eq_none_iff : decodeRegimm w = none ↔
    fRtBits w ∈ [0x04#5, 0x05#5, 0x06#5, 0x07#5, 0x0D#5, 0x0F#5] ∨ 0x14 ≤ (fRtBits w).toNat := by
  rw [eq_none_congr (decodeRegimm_kind_congr (v := iSelForm 0x01#6 0 (fRtBits w) 0#16) (by simp))]
  generalize fRtBits w = rt
  revert rt
  decide +kernel

theorem decodeCop0Co_eq_none_iff :
    decodeCop0Co w = none ↔ fFunct w ∉ [0x01#6, 0x02#6, 0x06#6, 0x08#6, 0x18#6] := by
  unfold decodeCop0Co
  split <;> simp_all

theorem decodeCop0_eq_none_iff : decodeCop0 w = none ↔
    fRsBits w ∈ [0x02#5, 0x03#5] ∨ (0x06 ≤ (fRsBits w).toNat ∧ (fRsBits w).toNat ≤ 0x0F)
      ∨ (0x10 ≤ (fRsBits w).toNat ∧ fFunct w ∉ [0x01#6, 0x02#6, 0x06#6, 0x08#6, 0x18#6]) := by
  have hbit : ∀ rs : BitVec 5, rs.getLsbD 4 = decide (0x10 ≤ rs.toNat) := by decide
  have hco : w.getLsbD 25 = decide (0x10 ≤ (fRsBits w).toNat) := by rw [getLsbD_25, hbit]
  by_cases hle : 0x10 ≤ (fRsBits w).toNat
  · have hlist : ∀ rs : BitVec 5, 0x10 ≤ rs.toNat →
        ¬ (rs ∈ [0x02#5, 0x03#5] ∨ (0x06 ≤ rs.toNat ∧ rs.toNat ≤ 0x0F)) := by decide
    rw [decodeCop0, hco, if_pos (decide_eq_true hle), decodeCop0Co_eq_none_iff, ← or_assoc,
      or_iff_right (hlist _ hle), and_iff_right hle]
  · have hv : (copForm 0x10#6 (fRsBits w) 0 0).getLsbD 25 = false := by
      rw [getLsbD_25_copForm, hbit, decide_eq_false hle]
    rw [eq_none_congr (decodeCop0_kind_congr (v := copForm 0x10#6 (fRsBits w) 0 0)
      (by rw [hco, hv, decide_eq_false hle]) (fun h => absurd (hv.symm.trans h) Bool.false_ne_true)
      (fun _ => by simp))]
    simp only [hle, false_and, or_false]
    revert hle
    generalize fRsBits w = rs
    revert rs
    decide +kernel

theorem decodeCop1_eq_none_iff : decodeCop1 w = none ↔
    fRsBits w ∈ [0x03#5, 0x07#5, 0x12#5, 0x13#5] ∨ (0x09 ≤ (fRsBits w).toNat ∧ (fRsBits w).toNat ≤ 0x0F)
      ∨ 0x16 ≤ (fRsBits w).toNat ∨ (fRsBits w = 0x08#5 ∧ 0x04 ≤ (fRtBits w).toNat) := by
  by_cases hrs : fRsBits w = 0x08#5
  · rw [eq_none_congr (decodeCop1_kind_congr (v := iSelForm 0x11#6 8 (fRtBits w) 0#16)
      (by simp [hrs]) (by simp)), hrs]
    generalize fRtBits w = rt
    revert rt
    decide +kernel
  · rw [eq_none_congr (decodeCop1_kind_congr (v := copForm 0x11#6 (fRsBits w) 0 0)
      (by simp) (by simp [hrs]))]
    simp only [hrs, false_and, or_false]
    revert hrs
    generalize fRsBits w = rs
    revert rs
    decide +kernel

/-- The reserved opcodes, among those that select no map. -/
theorem decodeWord_eq_none_iff_of_op (h0 : fOp w ≠ 0x00#6) (h1 : fOp w ≠ 0x01#6) (h10 : fOp w ≠ 0x10#6)
    (h11 : fOp w ≠ 0x11#6) : decodeWord w = none ↔ fOp w ∈
      [0x12#6, 0x13#6, 0x1C#6, 0x1D#6, 0x1E#6, 0x1F#6, 0x32#6, 0x33#6, 0x36#6, 0x3A#6, 0x3B#6, 0x3E#6] := by
  have hop (v : InstrWord) : v &&& 0xFC000000#32 = _ := and_iForm v false false false
  rw [eq_none_congr (decodeWord_kind_congr (v := iForm (fOp w) 0 0 0#16)
    (by simp [selectorMask, h0, h1, h10, h11, hop]))]
  generalize fOp w = op
  revert op
  decide +kernel

end

/-- No instruction has the IR operation `Malformed`. -/
theorem ir_ne_malformed (i : Instr) : i.ir ≠ .op .malformed := by
  cases i <;> nofun

theorem decodeIr_eq_malformed_iff {w : InstrWord} : decodeIr w = .op .malformed ↔ decodeWord w = none := by
  unfold decodeIr
  cases decodeWord w with
  | some i => simp [ir_ne_malformed]
  | none => simp

end Sys2Proof

namespace Sys2Proof.Machine

/-- A reserved word raises `RI` in every state (46_system.md R456). -/
theorem execWord_of_malformed {w : InstrWord} (h : decodeIr w = .op .malformed) (s : State) :
    execWord w s = .next (s.enterException 10#5 0#2) := by
  rw [execWord_eq_execIr, h]
  rfl

/-- Settles O4, map by map of the decoder. -/
theorem reservedWords : Obligations.ReservedWords := by
  refine fun w => ⟨?_, execWord_of_malformed⟩
  rw [decodeIr_eq_malformed_iff]
  by_cases h0 : fOp w = 0x00#6
  · have hop : w.extractLsb' 26 6 = _ := h0
    rw [decodeWord_of_special h0, decodeSpecial_eq_none_iff]
    simp [hop, fFunct]
  by_cases h1 : fOp w = 0x01#6
  · have hop : w.extractLsb' 26 6 = _ := h1
    rw [decodeWord_of_regimm h1, decodeRegimm_eq_none_iff]
    simp [hop, fRtBits]
  by_cases h10 : fOp w = 0x10#6
  · have hop : w.extractLsb' 26 6 = _ := h10
    rw [decodeWord_of_cop0 h10, decodeCop0_eq_none_iff]
    simp [hop, fRsBits, fFunct]
  by_cases h11 : fOp w = 0x11#6
  · have hop : w.extractLsb' 26 6 = _ := h11
    rw [decodeWord_of_cop1 h11, decodeCop1_eq_none_iff]
    simp [hop, fRsBits, fRtBits]
  rw [decodeWord_eq_none_iff_of_op h0 h1 h10 h11]
  unfold fOp at h0 h1 h10 h11
  simp [h0, h1, h10, h11, fOp]

/-! ## Coprocessor 1 with `CU1` = 0 (60_exceptions.md R477) -/

section
variable {s : State} (hcu : s.cu1 = false)
include hcu

theorem runLoad_unusable (b : Bits) (e : Ext) (ft base : RegIdx) (offset : BitVec 16) :
    runLoad (loadOp b e (.f ft) base offset) s = raise .cpu 1#2 s := by
  simp [runLoad, loadOp, dataRegIsCop1, hcu]

theorem runStore_unusable (b : Bits) (ft base : RegIdx) (offset : BitVec 16) :
    runStore (storeOp b (.f ft) base offset) s = raise .cpu 1#2 s := by
  simp [runStore, storeOp, dataRegIsCop1, hcu]

theorem runMove_fromCop_unusable {r : CopReg} (hr : copRegIsCop1 r = true) (rt : RegIdx) :
    runMove (.fromCop r rt) s = raise .cpu 1#2 s := by
  simp [runMove, hr, hcu]

theorem runMove_toCop_unusable {r : CopReg} (hr : copRegIsCop1 r = true) (rt : RegIdx) :
    runMove (.toCop rt r) s = raise .cpu 1#2 s := by
  simp [runMove, hr, hcu]

theorem runControlFlow_unusable {op : CfOp} (hop : condIsCop1 op.condition = true) (hlatch : s.latch = none) :
    runControlFlow op s = finish (raise .cpu 1#2 s) := by
  simp [runControlFlow, hlatch, hop, hcu]

end

/-- Settles O33: each form runs an operation on a coprocessor-1 location or condition; the opcodes of
coprocessors 2 and 3 are reserved. -/
theorem coprocessorUnusable : Obligations.CoprocessorUnusable := by
  refine ⟨fun s hcu a b imm => ?_, fun w s hw => ?_, fun s => ?_, by decide⟩
  · exact ⟨congrArg finish (runLoad_unusable hcu ..), congrArg finish (runLoad_unusable hcu ..),
      congrArg finish (runStore_unusable hcu ..), congrArg finish (runStore_unusable hcu ..),
      congrArg finish (runMove_fromCop_unusable hcu rfl a),
      congrArg finish (runMove_fromCop_unusable hcu rfl a),
      congrArg finish (runMove_toCop_unusable hcu rfl a), congrArg finish (runMove_toCop_unusable hcu rfl a),
      congrArg finish (runMove_fromCop_unusable hcu rfl a), congrArg finish (runMove_toCop_unusable hcu rfl a),
      fun hlatch => ⟨runControlFlow_unusable hcu rfl hlatch, runControlFlow_unusable hcu rfl hlatch,
        runControlFlow_unusable hcu rfl hlatch, runControlFlow_unusable hcu rfl hlatch⟩⟩
  · refine execWord_of_malformed ((reservedWords w).1.mpr (.inl ?_)) s
    rcases hw with hw | hw <;> simp [hw]
  · show ((bootStage1 s).readC0 12).getLsbD 29 = _
    rw [bootStage1_readC0_status, getLsbD_mergeBits]
    rfl

/-! ## Known words (R160) -/

/-- Settles O6: the store-word encodings are those of `SW`, the other words are closed. -/
theorem knownDecodings : Obligations.KnownDecodings := by
  refine ⟨rfl, fun base rt imm => ?_, rfl, rfl, rfl, rfl, rfl, rfl, rfl⟩
  show decodeIr (encode (.sw base rt imm)) = (Instr.sw base rt imm).ir
  rw [decodeIr, decodeWord_encode]

end Sys2Proof.Machine

/-! # The pipeline: blocks, halting, likely branches and delay slots (40_pipeline.md R190 to R210)

What the block finder answers is read off `scanBlock` word by word; what a control transfer does outside a
delay slot, and what every exception in a delay slot reports, is said once for all instructions. -/

namespace Sys2Proof.Machine

/-! ## The finder's test and the head of the block (R193, R194, R199 to R201) -/

/-- Settles O3, map by map of the decoder (`isCT_eq_isControlFlow`). -/
theorem controlTransferTest : Obligations.ControlTransferTest := isCT_eq_isControlFlow

theorem execWord_of_some {w : InstrWord} {i : Instr} (h : decodeWord w = some i) (s : State) :
    execWord w s = exec i s := by
  simp only [execWord, h]

theorem execWord_of_none {w : InstrWord} (h : decodeWord w = none) (s : State) :
    execWord w s = .next (s.enterException 10#5 0#2) :=
  execWord_of_malformed (decodeIr_eq_malformed_iff.mpr h) s

/-- Settles O7: `step_head`, and the two things a word can decode to. -/
theorem stepRunsHead : Obligations.StepRunsHead := by
  intro s e rest hp hb
  rw [step_head hp hb]
  exact ⟨fun i hi => execWord_of_some hi s, fun hw => execWord_of_none hw s⟩

/-! ## What the block finder returns (R195 to R197) -/

/-- A block by its entries: straight-line words up to the control transfer, which is the last but one. -/
theorem bufferShape_entries {b : List BlockEntry} (h : bufferShape b) :
    ∃ n, b.length = n + 2 ∧ ∀ k e, b[k]? = some e →
      (k < n → isCT e.word = false) ∧ (k = n → isCT e.word = true) := by
  induction b with
  | nil => exact h.elim
  | cons x xs ih =>
    match xs, h, ih with
    | [_], hct, _ =>
      refine ⟨0, rfl, fun k e hk => ⟨fun hlt => absurd hlt (Nat.not_lt_zero k), ?_⟩⟩
      rintro rfl
      cases hk
      exact hct
    | _ :: _ :: _, ⟨hline, hrest⟩, ih =>
      obtain ⟨n, hlen, hentries⟩ := ih hrest
      refine ⟨n + 1, congrArg (· + 1) hlen, fun k e hk => ?_⟩
      cases k with
      | zero =>
        cases hk
        exact ⟨fun _ => hline, fun h0 => absurd h0 (Nat.succ_ne_zero n).symm⟩
      | succ k =>
        obtain ⟨hbefore, hat⟩ := hentries k e hk
        exact ⟨fun hlt => hbefore (Nat.lt_of_succ_lt_succ hlt), fun heq => hat (Nat.succ.inj heq)⟩

theorem findBlock_ok {start : Word} {s s' : State} {b : List BlockEntry} (h : findBlock start s = .ok b s') :
    bufferShape b ∧ consecutiveFrom s.cfg start b ∧ b.length ≤ s.cfg.blockScanLimit + 1 := by
  obtain ⟨b', p, hb, hblock⟩ | ⟨f, p, hb⟩ := scanBlock_cases start s.cfg.blockScanLimit start s
  · cases h.symm.trans hb
    exact hblock
  · cases h.symm.trans hb

section
variable {start a : Word} {s : State} {n : Nat} {w : InstrWord}

/-- The scan at a control-transfer word. -/
theorem scanBlock_transfer {d : InstrWord} (hw : fetch a s = .ok w s) (hct : isCT w = true)
    (hd : fetch (toPc s.cfg (a + 4#64)) s = .ok d s) :
    scanBlock start (n + 1) a s = .ok [⟨a, w⟩, ⟨toPc s.cfg (a + 4#64), d⟩] s := by
  simp only [scanBlock, hw, hct, hd, if_true]

variable {t : State} (hw : fetch a s = .ok w s) (hct : isCT w = false)
include hw hct

/-- The scan at a straight-line word goes on at the next one, to a block or to a fatal condition. -/
theorem scanBlock_straight_ok {rest : List BlockEntry}
    (h : scanBlock start n (toPc s.cfg (a + 4#64)) s = .ok rest t) :
    scanBlock start (n + 1) a s = .ok (⟨a, w⟩ :: rest) t := by
  simp only [scanBlock, hw, hct, h, Bool.false_eq_true, if_false]

theorem scanBlock_straight_fatal {f : Fatal}
    (h : scanBlock start n (toPc s.cfg (a + 4#64)) s = .fatal f t) :
    scanBlock start (n + 1) a s = .fatal f t := by
  simp only [scanBlock, hw, hct, h, Bool.false_eq_true, if_false]

end

/-- Straight-line words and a control transfer within the bound of the scan are a block. -/
theorem scanBlock_of_words {start a : Word} {s : State} {word : Nat → InstrWord} {n m : Nat} (hnm : n < m)
    (hfetch : ∀ k ≤ n + 1, fetch (wordAfter s.cfg a k) s = .ok (word k) s)
    (hline : ∀ k < n, isCT (word k) = false) (hct : isCT (word n) = true) :
    scanBlock start m a s
      = .ok ((List.range (n + 2)).map fun k => ⟨wordAfter s.cfg a k, word k⟩) s := by
  induction n generalizing m a word with
  | zero =>
    obtain ⟨m, rfl⟩ := Nat.exists_eq_add_of_lt hnm
    exact scanBlock_transfer (hfetch 0 (Nat.zero_le _)) hct (hfetch 1 le_rfl)
  | succ n ih =>
    obtain ⟨m, rfl⟩ := Nat.exists_eq_add_one_of_ne_zero (Nat.ne_zero_of_lt hnm)
    have hfirst : fetch a s = .ok (word 0) s := hfetch 0 (Nat.zero_le _)
    have hrest := ih (a := toPc s.cfg (a + 4#64)) (word := fun k => word (k + 1)) (m := m) (by omega)
      (fun k hk => by rw [wordAfter_next]; exact hfetch (k + 1) (by omega))
      (fun k hk => hline (k + 1) (by omega)) hct
    rw [scanBlock_straight_ok hfirst (hline 0 n.succ_pos) hrest, List.range_succ_eq_map (n := n + 2)]
    simp only [wordAfter_next, List.map_cons, List.map_map]
    rfl

/-- The scan of straight-line words alone reaches its bound. -/
theorem scanBlock_unbounded {start a : Word} {s : State} {word : Nat → InstrWord} {m : Nat}
    (h : ∀ k < m, fetch (wordAfter s.cfg a k) s = .ok (word k) s ∧ isCT (word k) = false) :
    scanBlock start m a s = .fatal (.unboundedBlock start) s := by
  induction m generalizing a word with
  | zero => rfl
  | succ m ih =>
    obtain ⟨hfirst, hline⟩ : fetch a s = .ok (word 0) s ∧ isCT (word 0) = false := h 0 m.succ_pos
    have hrest := ih (a := toPc s.cfg (a + 4#64)) (word := fun k => word (k + 1)) fun k hk => by
      rw [wordAfter_next]
      exact h (k + 1) (by omega)
    exact scanBlock_straight_fatal hfirst hline hrest

/-- Settles O9: the shape by `scanBlock_cases`, the converse and the bound by induction on the words the scan
examines. -/
theorem formedBlock : Obligations.FormedBlock := by
  refine ⟨fun start s s' b h => ?_, fun start s word n hn hfetch hline hct =>
    scanBlock_of_words hn hfetch hline hct, fun start s word h => scanBlock_unbounded h, rfl⟩
  obtain ⟨hshape, haddr, hlen⟩ := findBlock_ok h
  obtain ⟨n, hn, hentries⟩ := bufferShape_entries hshape
  exact ⟨n, by omega, hn, fun k e hk => ⟨consecutiveFrom_addr haddr hk, hentries k e hk⟩⟩

/-! ## Forming a block touches the collaborator in its window only (R110, R198) -/

/-- The state an access hands on, whether it succeeds or is fatal. -/
def Access.state {α : Type} : Access α → State
  | .ok _ s => s
  | .fatal _ s => s

@[simp] theorem Access.state_ok {α : Type} (a : α) (s : State) : (Access.ok a s).state = s := rfl
@[simp] theorem Access.state_fatal {α : Type} (f : Fatal) (s : State) :
    (Access.fatal f s : Access α).state = s := rfl

theorem physRead_state {pa n : Nat} {s : State} (h : dispatch s.cfg pa n ≠ some .pi) :
    (physRead pa n s).state = s := by
  unfold physRead
  split
  · rfl
  · rfl
  · exact absurd ‹_› h
  · rfl

theorem routerRead_state {va : EffAddr} {n : Nat} {s : State}
    (h : ∀ pa, physical s.cfg va n = some pa → dispatch s.cfg pa n ≠ some .pi) :
    (routerRead va n s).state = s := by
  unfold routerRead
  split
  · exact physRead_state (h _ ‹_›)
  · rfl

/-- A word outside the window is fetched without an effect. -/
theorem fetch_state {a : Word} {s : State} (h : ∀ pa, ¬ inWindow s.cfg a 4 pa) : (fetch a s).state = s := by
  unfold fetch
  split
  · rfl
  · rename_i halign
    have halign : a.toNat % 4 = 0 := isAligned_iff.mp (by simpa using halign)
    have hread := routerRead_state (s := s) fun pa hpa hrow => h pa ⟨halign, hpa, hrow⟩
    cases hr : routerRead a 4 s <;> simpa [hr] using hread

/-- A scan none of whose words is in the window has no effect. -/
theorem scanBlock_state {start a : Word} {s : State} {n : Nat}
    (h : ∀ k ≤ n, ∀ pa, ¬ inWindow s.cfg (wordAfter s.cfg a k) 4 pa) :
    (scanBlock start n a s).state = s := by
  induction n generalizing a with
  | zero => rfl
  | succ n ih =>
    have hnext := fetch_state (s := s) (a := toPc s.cfg (a + 4#64)) (h 1 (Nat.le_add_left 1 n))
    have hrest := ih (a := toPc s.cfg (a + 4#64)) fun k hk => by
      rw [wordAfter_next]
      exact h (k + 1) (by omega)
    have hfirst : (fetch a s).state = s := fetch_state (h 0 (Nat.zero_le _))
    unfold scanBlock
    cases hw : fetch a s with
    | fatal f t => simpa [hw] using hfirst
    | ok w t =>
      obtain rfl : t = s := by simpa [hw] using hfirst
      dsimp only
      split
      · cases hd : fetch (toPc t.cfg (a + 4#64)) t <;> simpa [hd] using hnext
      · cases hr : scanBlock start n (toPc t.cfg (a + 4#64)) t <;> simpa [hr] using hrest

theorem formBlock_pi (s : State) : (formBlock s).pi = (findBlock s.pc s).state.pi := by
  unfold formBlock
  cases findBlock s.pc s <;> rfl

/-- Settles O10: `formBlock_cases` for the machine, `scanBlock_state` for the collaborator. -/
theorem formationChangesNothing : Obligations.FormationChangesNothing := by
  intro s hp hb
  refine ⟨formBlock s, by simp only [step, hp, hb], ?_, fun hpi => ?_⟩
  · obtain ⟨b, p, hform, -⟩ | ⟨f, p, hform⟩ := formBlock_cases s
    · exact .inl ⟨b, by rw [hform]⟩
    · exact .inr ⟨f, by rw [hform]⟩
  · by_contra hout
    have hstate : (findBlock s.pc s).state = s :=
      scanBlock_state fun k hk pa hw => hout ⟨k, pa, hk, hw⟩
    exact hpi (by rw [formBlock_pi, hstate])

/-! ## Halted and stopped machines (R202; 60_exceptions.md R471, R498) -/

/-- A step that ends in a fatal condition changed the run phase, and the collaborator at most. -/
def HaltedFrom (s t : State) : Prop :=
  ∀ f, t.phase = .halted f → t = { s with pi := t.pi, phase := .halted f }

/-- A step after which the machine is not halted. -/
theorem haltedFrom_of_phase {s t : State} {p : Phase} (hp : t.phase = p) (hne : ∀ f, p ≠ .halted f) :
    HaltedFrom s t :=
  fun f hf => absurd (hp.symm.trans hf) (hne f)

theorem haltedFrom_halt (s : State) (p : Peripheral) (f : Fatal) :
    HaltedFrom s { s with pi := p, phase := .halted f } := by
  rintro g ⟨⟩
  rfl

theorem StepOf.haltedFrom {d : Decoded} {s t : State} (hstep : StepOf d s t) (hp : s.phase = .running) :
    HaltedFrom s t := by
  have hrun : t.phase = .running → HaltedFrom s t := fun ht => haltedFrom_of_phase ht nofun
  cases hstep with
  | done _ ho => exact hrun (ho.phase.trans hp)
  | exception c e => exact hrun hp
  | redirected _ => exact hrun (s.returnFromException_phase.trans hp)
  | fatal f p => exact haltedFrom_halt s p f
  | transfer op _ _ => exact hrun ((s.afterTransfer_phase op).trans hp)

theorem bootStage2_haltedFrom (s : State) : HaltedFrom s (bootStage2 s) := by
  unfold bootStage2
  split
  · exact haltedFrom_halt s s.pi .bootFailure
  · exact haltedFrom_of_phase rfl nofun

theorem formBlock_haltedFrom {s : State} (hp : s.phase = .running) : HaltedFrom s (formBlock s) := by
  obtain ⟨b, p, hform, -⟩ | ⟨f, p, hform⟩ := formBlock_cases s
  · rw [hform]
    exact haltedFrom_of_phase hp nofun
  · rw [hform]
    exact haltedFrom_halt s p f

theorem step_haltedFrom {s t : State} (h : step s = .next t) : HaltedFrom s t := by
  cases step_cases h with
  | boot1 _ ht => exact ht ▸ haltedFrom_of_phase rfl nofun
  | boot2 _ ht => exact ht ▸ bootStage2_haltedFrom s
  | form hp _ ht => exact ht ▸ formBlock_haltedFrom hp
  | exec _ _ hp _ hop => exact hop.haltedFrom hp

theorem step_of_halted {s : State} {f : Fatal} (h : s.phase = .halted f) : step s = .fault (.halted f) := by
  simp only [step, h]

theorem hostStop_of_halted {s : State} {f : Fatal} (h : s.phase = .halted f) : hostStop s = s := by
  simp only [hostStop, h]

/-- The host stops every machine that is not halted; one that is stopped stays so. -/
theorem hostStop_of_not_halted {s : State} (h : ∀ f, s.phase ≠ .halted f) :
    hostStop s = { s with phase := .stopped } := by
  unfold hostStop
  cases hp : s.phase with
  | halted f => exact absurd hp (h f)
  | stopped => simp only [← hp]
  | reset => rfl
  | boot1Done => rfl
  | running => rfl

/-- Settles O12, by the cases of a step (`step_haltedFrom`) and of the run phase. -/
theorem haltedAndStopped : Obligations.HaltedAndStopped := by
  refine ⟨fun s t f hstep ht => ⟨step_haltedFrom hstep f ht, step_of_halted ht, ?_⟩, fun s hs => ?_⟩
  · rw [hostStop_of_halted ht]
    exact step_of_halted ht
  · rw [hostStop_of_not_halted hs]
    exact ⟨rfl, rfl⟩

/-! ## Branches outside a delay slot (R204, R205; 44_control_flow.md R370 to R375) -/

/-- The target of a relative branch is the one of R372. -/
theorem target_branchOffset (s : State) (imm : BitVec 16) :
    s.target (.rel (branchOffset imm)) = branchTarget s imm := by
  have hscale : branchOffset imm = 4#64 * imm.signExtend 64 := by
    rw [branchOffset, BitVec.mul_comm, BitVec.shiftLeft_eq_mul_twoPow]
    rfl
  simp only [State.target, branchTarget, hscale]
  cases s.cfg.branchBase <;> rfl

section
variable {s : State} (hl : s.latch = none)
include hl

/-- Outside a delay slot, with coprocessor 1 usable where the condition reads it, a transfer is made. -/
theorem runControlFlow_of_usable {op : CfOp} (hcu : condIsCop1 op.condition = false ∨ s.cu1 = true) :
    runControlFlow op s = .next (s.afterTransfer op) := by
  have huse : (condIsCop1 op.condition && !s.cu1) = false := by
    obtain hcu | hcu := hcu <;> simp [hcu]
  simp [runControlFlow, hl, huse]

variable {i : Instr} {c : Cond} {imm : BitVec 16} {link : Option RegIdx}
  (hcu : condIsCop1 c = false ∨ s.cu1 = true)
include hcu

/-- A branch that is not likely enters its delay slot, taken or not. -/
theorem branchesIf_of (hi : exec i s = runControlFlow (branchOp c imm false link) s) :
    BranchesIf i s (s.holds c) imm (linkList link) := by
  refine completesTransfer_of (hi.trans ((runControlFlow_of_usable hl hcu).trans ?_))
  rw [← target_branchOffset]
  rfl

/-- A likely branch enters its delay slot where it is taken, and nullifies it where it is not. -/
theorem branchesLikelyIf_of (hi : exec i s = runControlFlow (branchOp c imm true link) s) :
    BranchesLikelyIf i s (s.holds c) imm (linkList link) := by
  have hexec := hi.trans (runControlFlow_of_usable hl hcu)
  refine ⟨fun htaken => completesTransfer_of (hexec.trans ?_),
    fun htaken => completesNullifying_of (hexec.trans ?_)⟩
  · rw [← target_branchOffset]
    simp [State.afterTransfer, branchOp, htaken]
  · simp [State.afterTransfer, branchOp, htaken]

end

/-! ### The conditions, on all 64 bits (R371) -/

section
variable (s : State) (a b : RegIdx)

theorem State.holds_eq : s.holds (.eq a b) = decide (s.readX a = s.readX b) := rfl

theorem State.holds_ne : s.holds (.ne a b) = decide (s.readX a ≠ s.readX b) :=
  (decide_not ..).symm

theorem State.holds_ltz : s.holds (.ltz a) = (s.readX a).msb := BitVec.msb_eq_toInt.symm

theorem State.holds_gez : s.holds (.gez a) = !(s.readX a).msb := by
  rw [BitVec.msb_eq_toInt, ← decide_not, State.holds, s64]
  simp only [Int.not_lt]

theorem s64_eq_zero_iff {v : Word} : s64 v = 0 ↔ v = 0#64 :=
  BitVec.toInt_inj (y := 0#64)

theorem State.holds_lez : s.holds (.lez a) = ((s.readX a).msb || decide (s.readX a = 0#64)) := by
  rw [BitVec.msb_eq_toInt, ← Bool.decide_or, State.holds, decide_eq_decide, ← s64_eq_zero_iff]
  exact Int.le_iff_lt_or_eq

theorem State.holds_gtz : s.holds (.gtz a) = (!(s.readX a).msb && decide (s.readX a ≠ 0#64)) := by
  have hlez : s.holds (.gtz a) = !s.holds (.lez a) := by
    simp only [State.holds, ← decide_not, Int.not_le]
  rw [hlez, State.holds_lez, Bool.not_or, ← decide_not]

end

/-- Settles O52: every form is a likely branch by `branchesLikelyIf_of`, with its condition on 64 bits. -/
theorem likelyBranches : Obligations.LikelyBranches := by
  intro s rs rt imm hl
  rw [← State.holds_eq, ← State.holds_ne, ← State.holds_lez, ← State.holds_gtz, ← State.holds_gez,
    ← State.holds_ltz]
  exact ⟨branchesLikelyIf_of (link := none) hl (.inl rfl) rfl,
    branchesLikelyIf_of (link := none) hl (.inl rfl) rfl,
    branchesLikelyIf_of (link := none) hl (.inl rfl) rfl,
    branchesLikelyIf_of (link := none) hl (.inl rfl) rfl,
    branchesLikelyIf_of (link := none) hl (.inl rfl) rfl,
    branchesLikelyIf_of (link := none) hl (.inl rfl) rfl,
    branchesLikelyIf_of (link := some 31) hl (.inl rfl) rfl,
    branchesLikelyIf_of (link := some 31) hl (.inl rfl) rfl⟩

/-! ## The delay slot and what follows it (R203, R206) -/

/-- A delay-slot instruction that is done leaves the block for the target of a taken branch, or for the word
after the delay slot. -/
theorem delaySlot_done {s t : State} {p : PendingBranch} {e : BlockEntry} {i : Instr} {c : Changes}
    {P : State → Prop} (hseq : s.sequenceOk) (hp : s.phase = .running) (hl : s.latch = some p)
    (hb : s.block = [e]) (hi : decodeWord e.word = some i) (hc : Completes i s c P)
    (hstep : step s = .next t) :
    P t ∧ Frame c s t ∧ t.block = [] ∧ t.latch = none
      ∧ t.pc = toPc s.cfg (if p.taken then p.target else p.ctAddr + 8#64) := by
  obtain ⟨u, hexec, ⟨hpc, hblock, hlatch, hframe⟩, hP⟩ := hc
  rw [step_head hp hb, execWord_of_some hi, hexec] at hstep
  cases hstep
  obtain ⟨haddr, -⟩ := (sequenceOk_of_latch_some hp hl).mp hseq
  refine ⟨hP, hframe, by rw [hblock, hb, List.tail_cons], hlatch, ?_⟩
  rw [hpc, State.nextPc, hl]
  dsimp only
  split
  · rfl
  · rw [haddr, toPc_toPc_add, BitVec.add_assoc]
    rfl

/-- `ORI` with register 0 loads the immediate (42_alu_arith_logic.md R280). -/
theorem completesWriting_ori_zero (s : State) (d : RegIdx) (v : BitVec 16) :
    CompletesWriting (.ori 0 d v) s d (0#48 ++ v) := by
  refine completesWriting_of (congrArg (fun x => Host.Outcome.next (s.writeX d x).advance) ?_)
  show s.readX 0 ||| zextImm v = 0#48 ++ v
  rw [State.readX_zero, BitVec.zero_or]
  exact BitVec.setWidth_eq_append (by decide)

/-- Settles O54: `delaySlot_done`, and for the example the branch that is not taken before it. -/
theorem delaySlotThenTarget : Obligations.DelaySlotThenTarget := by
  refine ⟨fun s t p e i c P => delaySlot_done, fun s rs rt d imm v hp hl hne hb => ?_⟩
  obtain ⟨t, hexec, hpc, hblock, hlatch, -, hframe⟩ :=
    branchesIf_of (link := none) (c := .eq rs rt) (i := .beq rs rt imm) hl (.inl rfl) rfl
  have hstep : step s = .next t := by
    rw [step_head hp hb, execWord_of_some (decodeWord_encode _), hexec]
  rw [State.holds_eq, decide_eq_false hne] at hlatch
  rw [hb, List.tail_cons] at hblock
  have hrun : t.phase = .running := hframe.phase.trans hp
  have hseq : t.sequenceOk := (sequenceOk_of_latch_some hrun hlatch).mpr
    ⟨by rw [hpc, hframe.cfg], encode (.ori 0 d v), by rw [hblock, hpc]⟩
  have hori := completesWriting_ori_zero t d v
  have ⟨u, hu, _⟩ := hori
  have hstep' : step t = .next u := by
    rw [step_head hrun hblock, execWord_of_some (decodeWord_encode _), hu]
  obtain ⟨hread, -, -, -, hupc⟩ := delaySlot_done hseq hrun hlatch hblock (decodeWord_encode _) hori hstep'
  exact ⟨t, u, hstep, hstep', by rw [hupc, hframe.cfg]; rfl, hread⟩

/-! ## Exceptions in a delay slot (R209, R210; 60_exceptions.md R480) -/

section
variable (s : State) (code : BitVec 5) (ce : BitVec 2)

/-- Every bit that exception entry writes in Cause is among the first 32, which every slot has. -/
theorem State.getLsbD_enterException_cause_low {k : Nat} (hk : k < 32) :
    (s.enterException code ce).cause.getLsbD k = (s.entryCause code ce).getLsbD k := by
  have hw := RegWidth_bits_bounds s.cfg.cp0Width
  rw [State.getLsbD_enterException_cause, if_pos (by omega)]

/-- `BD` is kept where `EXL` is set, and else says whether the instruction was in a delay slot. -/
theorem State.enterException_bd : (s.enterException code ce).cause.getLsbD 31
    = if s.exl then s.cause.getLsbD 31 else s.latch.isSome := by
  rw [State.getLsbD_enterException_cause_low _ _ _ (by decide), State.entryCause,
    getLsbD_insertField _ _ _ (by decide), if_neg (by decide), getLsbD_insertField _ _ _ (by decide),
    if_neg (by decide), getLsbD_insertField _ _ _ (by decide), if_pos (by decide), BitVec.getLsbD_ofBool]
  rfl

theorem State.enterException_excCode : (s.enterException code ce).cause.extractLsb' 2 5 = code := by
  apply BitVec.eq_of_getLsbD_eq
  intro k hk
  rw [BitVec.getLsbD_extractLsb', decide_eq_true hk, Bool.true_and,
    State.getLsbD_enterException_cause_low _ _ _ (by omega), State.entryCause,
    getLsbD_insertField _ _ _ (by omega), if_neg (by omega), getLsbD_insertField _ _ _ (by omega),
    if_pos (by omega), Nat.add_sub_cancel_left]

theorem State.enterException_ce : (s.enterException code ce).cause.extractLsb' 28 2 = ce := by
  apply BitVec.eq_of_getLsbD_eq
  intro k hk
  rw [BitVec.getLsbD_extractLsb', decide_eq_true hk, Bool.true_and,
    State.getLsbD_enterException_cause_low _ _ _ (by omega), State.entryCause,
    getLsbD_insertField _ _ _ (by omega), if_pos (by omega), Nat.add_sub_cancel_left]

theorem State.enterException_exl : (s.enterException code ce).exl = true :=
  s.getLsbD_enterException_status code ce 1

end

/-- A control transfer or `ERET` in a delay slot is fatal before it executes. -/
theorem execIr_transfer_in_delaySlot {d : Decoded} {s : State} (hl : s.latch.isSome = true)
    (hd : d.isControlFlow = true ∨ d = .op (.system .eret)) :
    execIr d s = .next { s with phase := .halted (.unsupportedFeature .delaySlotTransfer) } := by
  match d, hd with
  | .op (.controlFlow op), _ =>
    show runControlFlow op s = _
    rw [runControlFlow, if_pos hl]
    rfl
  | .op (.system .eret), _ =>
    show finish (if s.latch.isSome then _ else _) = _
    rw [if_pos hl]
    rfl

/-- A trap whose condition holds raises `Tr` (46_system.md R434). -/
theorem finish_trap {c : TrapCond} {a : RegIdx} {o : Opnd} {s : State}
    (h : trapHolds c (s.readX a) (s.operand o) = true) :
    finish (runSystem (.trap c a o) s) = .next (s.enterException 13#5 0#2) := by
  simp only [runSystem, h, if_true]
  rfl

/-- A result that does not fit raises `Ov` (42_alu_arith_logic.md R271). -/
theorem finish_overflow {op : AluOp} {s : State}
    (h : computeAlu op.kind (s.optionalOperand op.src1) (s.operand op.src2) = none) :
    finish (runAlu op s) = .next (s.enterException 12#5 0#2) := by
  simp only [runAlu, h]
  rfl

theorem trap32_eq_none {t : Int} (h : ¬ FitsSigned 32 t) : trap32 t = none := by
  unfold FitsSigned at h
  exact if_pos (by omega)

theorem trap64_eq_none {t : Int} (h : ¬ FitsSigned 64 t) : trap64 t = none := by
  unfold FitsSigned at h
  exact if_pos (by omega)

theorem s32_eq (v : Word) : s32 v = (v.extractLsb' 0 32).toInt := by
  rw [s32, BitVec.setWidth_eq_extractLsb' (by decide)]

theorem s32_sextImm (imm : BitVec 16) : s32 (sextImm imm) = imm.toInt := by
  have hlo := BitVec.le_toInt imm
  have hhi := BitVec.toInt_lt (x := imm)
  rw [s32, sextImm, ← BitVec.signExtend_eq_setWidth_of_le _ (by decide), BitVec.toInt_signExtend,
    BitVec.toInt_signExtend_of_le (by decide), Nat.min_eq_left (by decide)]
  exact Int.bmod_eq_of_le (by omega) (by omega)

theorem s64_sextImm (imm : BitVec 16) : s64 (sextImm imm) = imm.toInt :=
  BitVec.toInt_signExtend_of_le (by decide)

section
variable {s : State} {b : PendingBranch} (hl : s.latch = some b) (hexl : s.exl = false)
include hl hexl

/-- Every exception in a delay slot reports the branch. -/
theorem reportsBranch_enterException (code : BitVec 5) (ce : BitVec 2) :
    ReportsBranch (.next (s.enterException code ce)) s b code ce := by
  refine ⟨_, rfl, ?_, ?_, s.enterException_excCode code ce, s.enterException_ce code ce,
    s.enterException_exl code ce, rfl, rfl, rfl⟩
  · rw [State.enterException_epc, State.entryEpc, hexl, hl]
    rfl
  · rw [State.enterException_bd, hexl, hl]
    rfl

theorem Raises.reportsBranch {i : Instr} {code : BitVec 5} {ce : BitVec 2} (h : Raises i s code ce) :
    ReportsBranch (exec i s) s b code ce := by
  rw [h]
  exact reportsBranch_enterException hl hexl code ce

/-- A trap that fires. -/
theorem reportsBranch_trap {i : Instr} {c : TrapCond} {a : RegIdx} {o : Opnd}
    (hi : exec i s = finish (runSystem (.trap c a o) s))
    (h : trapHolds c (s.readX a) (s.operand o) = true) : ReportsBranch (exec i s) s b 13#5 0#2 :=
  Raises.reportsBranch hl hexl (hi.trans (finish_trap h))

/-- A result that overflows. -/
theorem reportsBranch_overflow {i : Instr} {op : AluOp} (hi : exec i s = finish (runAlu op s))
    (h : computeAlu op.kind (s.optionalOperand op.src1) (s.operand op.src2) = none) :
    ReportsBranch (exec i s) s b 12#5 0#2 :=
  Raises.reportsBranch hl hexl (hi.trans (finish_overflow h))

/-- Coprocessor-1 operations with `CU1` = 0. -/
theorem reportsBranch_unusable (hcu : s.cu1 = false) (rs rt rd : RegIdx) (imm : BitVec 16) :
    ReportsBranch (exec (.lwc1 rs rt imm) s) s b 11#5 1#2
    ∧ ReportsBranch (exec (.ldc1 rs rt imm) s) s b 11#5 1#2
    ∧ ReportsBranch (exec (.swc1 rs rt imm) s) s b 11#5 1#2
    ∧ ReportsBranch (exec (.sdc1 rs rt imm) s) s b 11#5 1#2
    ∧ ReportsBranch (exec (.mfc1 rt rd) s) s b 11#5 1#2
    ∧ ReportsBranch (exec (.dmfc1 rt rd) s) s b 11#5 1#2
    ∧ ReportsBranch (exec (.mtc1 rt rd) s) s b 11#5 1#2
    ∧ ReportsBranch (exec (.dmtc1 rt rd) s) s b 11#5 1#2
    ∧ ReportsBranch (exec (.cfc1 rt rd) s) s b 11#5 1#2
    ∧ ReportsBranch (exec (.ctc1 rt rd) s) s b 11#5 1#2 := by
  obtain ⟨hlwc1, hldc1, hswc1, hsdc1, -⟩ := coprocessorUnusable.1 s hcu rs rt imm
  obtain ⟨-, -, -, -, hmfc1, hdmfc1, hmtc1, hdmtc1, hcfc1, hctc1, -⟩ :=
    coprocessorUnusable.1 s hcu rt rd imm
  exact ⟨hlwc1.reportsBranch hl hexl, hldc1.reportsBranch hl hexl, hswc1.reportsBranch hl hexl,
    hsdc1.reportsBranch hl hexl, hmfc1.reportsBranch hl hexl, hdmfc1.reportsBranch hl hexl,
    hmtc1.reportsBranch hl hexl, hdmtc1.reportsBranch hl hexl, hcfc1.reportsBranch hl hexl,
    hctc1.reportsBranch hl hexl⟩

end

/-- Settles O35: transfers by `execIr_transfer_in_delaySlot`, and every exception by
`reportsBranch_enterException`. What is left is that each instruction named does raise. -/
theorem delaySlotTransfer : Obligations.DelaySlotTransfer := by
  intro s b hl
  refine ⟨fun w hw => ?_, fun hexl => ⟨fun i code ce h => h.reportsBranch hl hexl, fun w hw => ?_,
    fun code => ⟨reportsBranch_enterException hl hexl 8#5 0#2,
      reportsBranch_enterException hl hexl 9#5 0#2⟩,
    fun rs rt rd imm => ?_⟩⟩
  · rw [execWord_eq_execIr]
    refine execIr_transfer_in_delaySlot (by rw [hl]; rfl) (hw.imp_right fun hw => ?_)
    rw [decodeIr, hw]
    rfl
  · rw [execWord_of_none hw]
    exact reportsBranch_enterException hl hexl 10#5 0#2
  · have htrap {i c a o} := reportsBranch_trap hl hexl (i := i) (c := c) (a := a) (o := o)
    have hov {i op} := reportsBranch_overflow hl hexl (i := i) (op := op)
    have himm32 := s32_sextImm imm
    have himm64 := s64_sextImm imm
    refine ⟨fun h => htrap rfl (decide_eq_true h), fun h => htrap rfl (decide_eq_true h),
      fun h => htrap rfl (decide_eq_true h), fun h => htrap rfl (decide_eq_true h),
      fun h => htrap rfl (beq_iff_eq.mpr h), fun h => htrap rfl (bne_iff_ne.mpr h),
      fun h => htrap rfl (decide_eq_true (himm64 ▸ h)), fun h => htrap rfl (decide_eq_true h),
      fun h => htrap rfl (decide_eq_true (himm64.symm ▸ h)), fun h => htrap rfl (decide_eq_true h),
      fun h => htrap rfl (beq_iff_eq.mpr h), fun h => htrap rfl (bne_iff_ne.mpr h),
      fun h => ?addi, fun h => ?add, fun h => ?sub, fun h => ?daddi,
      fun h => hov rfl (trap64_eq_none h), fun h => hov rfl (trap64_eq_none h),
      fun hcu => reportsBranch_unusable hl hexl hcu rs rt rd imm⟩
    case addi => exact hov rfl (trap32_eq_none (by rwa [← s32_eq, ← himm32] at h))
    case add => exact hov rfl (trap32_eq_none (by rwa [← s32_eq, ← s32_eq] at h))
    case sub => exact hov rfl (trap32_eq_none (by rwa [← s32_eq, ← s32_eq] at h))
    case daddi => exact hov rfl (trap64_eq_none (by rwa [← himm64] at h))

end Sys2Proof.Machine

/-! # The load and store forms that halt, and the register transfers (41_load_store.md R231 to R237, R248 to
R253; 43_alu_shift_muldiv.md R358 to R361) -/

namespace Sys2Proof.Machine

/-! ## The unaligned, load-linked and store-conditional forms (R220, R221) -/

/-- An instruction whose run ends in a fatal condition, before anything is written, halts the machine. -/
theorem halts_of_fatal {i : Instr} {s : State} {r : Result} {f : Fatal} (hi : exec i s = finish r)
    (hr : r = .fatal f s) : Halts i s f :=
  hi.trans (by rw [hr]; rfl)

section
variable (b : Bits) (rt base : RegIdx) (offset : BitVec 16) (s : State)

theorem runLoad_unaligned :
    runLoad (unalignedLoadOp b rt base offset) s = .fatal (.unsupportedFeature .unalignedForm) s := rfl

theorem runLoad_linked :
    runLoad (linkedLoadOp b rt base offset) s = .fatal (.unsupportedFeature .loadLinked) s := rfl

theorem runStore_unaligned :
    runStore (unalignedStoreOp b rt base offset) s = .fatal (.unsupportedFeature .unalignedForm) s := rfl

theorem runStore_conditional :
    runStore (conditionalStoreOp b rt base offset) s = .fatal (.unsupportedFeature .storeConditional) s := rfl

end

/-- Settles O39: every form is an unaligned, a linked or a conditional one, each of which the engine stops
before it computes an address. -/
theorem unsupportedForms : Obligations.UnsupportedForms := fun s base rt offset =>
  have load (b : Bits) := runLoad_unaligned b rt base offset s
  have store (b : Bits) := runStore_unaligned b rt base offset s
  have linked (b : Bits) := runLoad_linked b rt base offset s
  have conditional (b : Bits) := runStore_conditional b rt base offset s
  ⟨halts_of_fatal rfl (load .b32), halts_of_fatal rfl (load .b32), halts_of_fatal rfl (load .b64),
    halts_of_fatal rfl (load .b64), halts_of_fatal rfl (store .b32), halts_of_fatal rfl (store .b32),
    halts_of_fatal rfl (store .b64), halts_of_fatal rfl (store .b64), halts_of_fatal rfl (linked .b32),
    halts_of_fatal rfl (linked .b64), halts_of_fatal rfl (conditional .b32),
    halts_of_fatal rfl (conditional .b64)⟩

/-! ## `LUI` and the transfers of `HI` and `LO` (R231; 43_alu_shift_muldiv.md R358 to R361) -/

/-- A write of `HI` or `LO` alone, or of both, leaves everything else as it was. -/
theorem frame_hiLo (s : State) {hi lo : Word} {chi clo : Bool} (hhi : chi = false → hi = s.hi)
    (hlo : clo = false → lo = s.lo) :
    Frame { hi := chi, lo := clo } s ({ s with hi := hi, lo := lo } : State).advance :=
  ⟨fun _ _ => rfl, fun _ _ => rfl, fun _ _ => rfl, hhi, hlo, fun _ => rfl, fun _ => rfl, fun _ _ => rfl,
    fun _ => rfl, rfl, rfl, rfl, rfl⟩

/-- The sign extension of a 32-bit value held in 64 bits is that of the value. -/
theorem sext32_setWidth (v : BitVec 32) : sext32 (v.setWidth 64) = v.signExtend 64 :=
  congrArg (BitVec.signExtend 64)
    ((BitVec.setWidth_setWidth_of_le v (by decide)).trans (BitVec.setWidth_eq v))

/-- `LUI` writes the sign extension of the immediate over 16 zero bits. -/
theorem exec_lui (s : State) (r : RegIdx) (imm : BitVec 16) :
    exec (.lui r imm) s = .next (s.writeX r ((imm ++ 0#16 : BitVec 32).signExtend 64)).advance :=
  congrArg (fun v => Host.Outcome.next (s.writeX r v).advance) (sext32_setWidth (upperImm imm))

/-- Settles O41: `LUI` is a load of its immediate, and each transfer a copy. -/
theorem upperImmediateAndHiLo : Obligations.UpperImmediateAndHiLo := fun s r imm =>
  ⟨completesWriting_of (exec_lui s r imm), completesWriting_of rfl, completesWriting_of rfl,
    completes_of (u := { s with hi := s.readX r }) rfl rfl rfl rfl (frame_hiLo s nofun fun _ => rfl) rfl,
    completes_of (u := { s with lo := s.readX r }) rfl rfl rfl rfl (frame_hiLo s (fun _ => rfl) nofun) rfl⟩

end Sys2Proof.Machine

/-! # Additive, logical and compare instructions (42_alu_arith_logic.md) -/

namespace Sys2Proof.Machine

/-! ## An ALU operation, by the value it computes (R270, R271) -/

/-- An ALU operation that yields a value writes it to its destination. -/
theorem finish_runAlu_some {op : AluOp} {s : State} {v : Word}
    (h : computeAlu op.kind (s.optionalOperand op.src1) (s.operand op.src2) = some v) :
    finish (runAlu op s) = .next (s.writeAlu op.dest v).advance := by
  simp only [runAlu, h]
  rfl

theorem completesWriting_alu {i : Instr} {s : State} {rd : RegIdx} {v : Word} (op : AluOp)
    (hi : exec i s = finish (runAlu op s)) (hd : op.dest = .g rd)
    (h : computeAlu op.kind (s.optionalOperand op.src1) (s.operand op.src2) = some v) :
    CompletesWriting i s rd v :=
  completesWriting_of (by rw [hi, finish_runAlu_some h, hd]; rfl)

/-! ## Low words, immediates and comparisons (R272, R273) -/

theorem sext32_add (a b : Word) :
    sext32 (a + b) = (a.extractLsb' 0 32 + b.extractLsb' 0 32).signExtend 64 := by
  rw [sext32, BitVec.setWidth_add _ _ (by decide), BitVec.setWidth_eq_extractLsb' (by decide),
    BitVec.setWidth_eq_extractLsb' (by decide)]

theorem sext32_sub (a b : Word) :
    sext32 (a - b) = (a.extractLsb' 0 32 - b.extractLsb' 0 32).signExtend 64 := by
  rw [BitVec.sub_eq_add_neg, sext32, BitVec.setWidth_add _ _ (by decide), BitVec.setWidth_neg_of_le (by decide),
    ← BitVec.sub_eq_add_neg, BitVec.setWidth_eq_extractLsb' (by decide),
    BitVec.setWidth_eq_extractLsb' (by decide)]

theorem low_sextImm (imm : BitVec 16) : (sextImm imm).extractLsb' 0 32 = imm.signExtend 32 := by
  apply BitVec.eq_of_toInt_eq
  rw [← s32_eq, s32_sextImm, BitVec.toInt_signExtend_of_le (by decide)]

theorem zextImm_eq_append (imm : BitVec 16) : zextImm imm = 0#48 ++ imm :=
  BitVec.setWidth_eq_append (by decide)

theorem boolWord_decide (p : Prop) [Decidable p] : boolWord (decide p) = if p then 1#64 else 0#64 := by
  simp only [boolWord, decide_eq_true_eq]

/-! ## The trapping operations (R271, R272) -/

/-- A number that fits 32 bits is its own sign extension. -/
theorem sext32_ofInt {t : Int} (h : FitsSigned 32 t) : sext32 (BitVec.ofInt 64 t) = BitVec.ofInt 64 t := by
  obtain ⟨hlo, hhi⟩ := h
  apply BitVec.eq_of_toInt_eq
  rw [sext32, BitVec.toInt_signExtend_of_le (by decide), ← BitVec.signExtend_eq_setWidth_of_le _ (by decide),
    BitVec.toInt_signExtend, BitVec.toInt_ofInt_eq_self (by decide) (by omega) (by omega),
    Nat.min_eq_left (by decide)]
  exact Int.bmod_eq_of_le (by omega) (by omega)

theorem trap32_eq_some {t : Int} (h : FitsSigned 32 t) : trap32 t = some (BitVec.ofInt 64 t) := by
  obtain ⟨hlo, hhi⟩ := id h
  rw [trap32, if_neg (by omega), sext32_ofInt h]

theorem trap64_eq_some {t : Int} (h : FitsSigned 64 t) : trap64 t = some (BitVec.ofInt 64 t) := by
  obtain ⟨hlo, hhi⟩ := h
  exact if_neg (by omega)

section
variable {i : Instr} {s : State} {rd : RegIdx} {t : Int} (op : AluOp)
  (hi : exec i s = finish (runAlu op s)) (hd : op.dest = .g rd)
include hi hd

theorem writesUnlessOverflow_trap32
    (h : computeAlu op.kind (s.optionalOperand op.src1) (s.operand op.src2) = trap32 t) :
    WritesUnlessOverflow i s rd 32 t :=
  ⟨fun hfit => completesWriting_alu op hi hd (h.trans (trap32_eq_some hfit)),
    fun hov => hi.trans (finish_overflow (h.trans (trap32_eq_none hov)))⟩

theorem writesUnlessOverflow_trap64
    (h : computeAlu op.kind (s.optionalOperand op.src1) (s.operand op.src2) = trap64 t) :
    WritesUnlessOverflow i s rd 64 t :=
  ⟨fun hfit => completesWriting_alu op hi hd (h.trans (trap64_eq_some hfit)),
    fun hov => hi.trans (finish_overflow (h.trans (trap64_eq_none hov)))⟩

end

/-! ## The value of each kind, as the statements write it (R272) -/

section
variable (a b : Word) (imm : BitVec 16)

theorem computeAlu_add32 :
    computeAlu .add32 a b = some ((a.extractLsb' 0 32 + b.extractLsb' 0 32).signExtend 64) :=
  congrArg some (sext32_add a b)

theorem computeAlu_sub32 :
    computeAlu .sub32 a b = some ((a.extractLsb' 0 32 - b.extractLsb' 0 32).signExtend 64) :=
  congrArg some (sext32_sub a b)

theorem computeAlu_add32_sextImm : computeAlu .add32 a (sextImm imm)
    = some ((a.extractLsb' 0 32 + imm.signExtend 32).signExtend 64) := by
  rw [computeAlu_add32, low_sextImm]

theorem computeAlu_add32T :
    computeAlu .add32T a b = trap32 ((a.extractLsb' 0 32).toInt + (b.extractLsb' 0 32).toInt) := by
  rw [computeAlu, s32_eq, s32_eq]

theorem computeAlu_sub32T :
    computeAlu .sub32T a b = trap32 ((a.extractLsb' 0 32).toInt - (b.extractLsb' 0 32).toInt) := by
  rw [computeAlu, s32_eq, s32_eq]

theorem computeAlu_add32T_sextImm :
    computeAlu .add32T a (sextImm imm) = trap32 ((a.extractLsb' 0 32).toInt + imm.toInt) := by
  rw [computeAlu_add32T, ← s32_eq (sextImm imm), s32_sextImm]

theorem computeAlu_add64T_sextImm :
    computeAlu .add64T a (sextImm imm) = trap64 (a.toInt + imm.toInt) := by
  rw [computeAlu, s64_sextImm, s64]

theorem computeAlu_nor : computeAlu .nor a b = some (~~~a &&& ~~~b) :=
  congrArg some BitVec.not_or

theorem computeAlu_slt : computeAlu .slt a b = some (if a.toInt < b.toInt then 1#64 else 0#64) :=
  congrArg some (boolWord_decide _)

theorem computeAlu_sltu :
    computeAlu .sltu a b = some (if a.toNat < b.toNat then 1#64 else 0#64) :=
  congrArg some (boolWord_decide _)

theorem computeAlu_slt_sextImm :
    computeAlu .slt a (sextImm imm) = some (if a.toInt < imm.toInt then 1#64 else 0#64) := by
  rw [computeAlu_slt, ← s64, ← s64, s64_sextImm]

end

/-! ## The families (R275 to R297) -/

/-- Settles O43: a result is written, or raises, as `trap32` and `trap64` say of it. -/
theorem trappingArithmetic : Obligations.TrappingArithmetic := fun _ rs rt rd imm =>
  ⟨writesUnlessOverflow_trap32 (aluImmOp .add32T rt rs (sextImm imm)) rfl rfl (computeAlu_add32T_sextImm _ imm),
    writesUnlessOverflow_trap32 (aluRegOp .add32T rd rs rt) rfl rfl (computeAlu_add32T _ _),
    writesUnlessOverflow_trap32 (aluRegOp .sub32T rd rs rt) rfl rfl (computeAlu_sub32T _ _),
    writesUnlessOverflow_trap64 (aluImmOp .add64T rt rs (sextImm imm)) rfl rfl (computeAlu_add64T_sextImm _ imm),
    writesUnlessOverflow_trap64 (aluRegOp .add64T rd rs rt) rfl rfl rfl,
    writesUnlessOverflow_trap64 (aluRegOp .sub64T rd rs rt) rfl rfl rfl⟩

/-- Settles O42: the 64-bit forms by definition, the 32-bit ones by the sum or difference of low words. -/
theorem wrappingArithmetic : Obligations.WrappingArithmetic := fun _ rs rt rd imm =>
  ⟨completesWriting_alu (aluImmOp .add32 rt rs (sextImm imm)) rfl rfl (computeAlu_add32_sextImm _ imm),
    completesWriting_alu (aluRegOp .add32 rd rs rt) rfl rfl (computeAlu_add32 _ _),
    completesWriting_alu (aluRegOp .sub32 rd rs rt) rfl rfl (computeAlu_sub32 _ _),
    completesWriting_of rfl, completesWriting_of rfl, completesWriting_of rfl⟩

/-- Settles O44: the register forms by definition but for `NOR` and the comparisons, and the immediate ones
by what the extension of the immediate is. -/
theorem logicAndCompare : Obligations.LogicAndCompare := by
  intro s rs rt rd imm
  rw [← zextImm_eq_append]
  exact ⟨completesWriting_of rfl, completesWriting_of rfl, completesWriting_of rfl,
    completesWriting_of rfl, completesWriting_of rfl, completesWriting_of rfl,
    completesWriting_alu (aluRegOp .nor rd rs rt) rfl rfl (computeAlu_nor _ _),
    completesWriting_alu (aluImmOp .slt rt rs (sextImm imm)) rfl rfl (computeAlu_slt_sextImm _ imm),
    completesWriting_alu (aluImmOp .sltu rt rs (sextImm imm)) rfl rfl (computeAlu_sltu _ _),
    completesWriting_alu (aluRegOp .slt rd rs rt) rfl rfl (computeAlu_slt _ _),
    completesWriting_alu (aluRegOp .sltu rd rs rt) rfl rfl (computeAlu_sltu _ _)⟩

end Sys2Proof.Machine

/-! # Shifts, multiplies and divides (43_alu_shift_muldiv.md) -/

namespace Sys2Proof.Machine

/-! ## Low words, as the statements write them (R330, R331) -/

theorem low32_eq (v : Word) : low32 v = v.extractLsb' 0 32 :=
  BitVec.setWidth_eq_extractLsb' (by decide)

theorem u32_eq (v : Word) : u32 v = (v.extractLsb' 0 32).toNat :=
  congrArg BitVec.toNat (low32_eq v)

theorem sext32_eq (v : Word) : sext32 v = (v.extractLsb' 0 32).signExtend 64 :=
  congrArg (BitVec.signExtend 64) (low32_eq v)

theorem u64_eq_zero_iff {v : Word} : u64 v = 0 ↔ v = 0#64 :=
  BitVec.toNat_eq (y := 0#64).symm

/-! ## The amount of a shift (R330) -/

theorem shiftLow_toNat (sa : BitVec 5) : (shiftLow sa).toNat = sa.toNat :=
  BitVec.toNat_setWidth_of_le (by decide)

theorem shiftHigh_toNat (sa : BitVec 5) : (shiftHigh sa).toNat = sa.toNat + 32 := by
  have hsa := sa.isLt
  rw [shiftHigh, BitVec.toNat_add, BitVec.toNat_setWidth_of_le (by decide)]
  exact Nat.mod_eq_of_lt (show sa.toNat + 32 < 64 by omega)

/-- A 64-bit shift uses the whole of a constant amount. -/
theorem amount64_sa (n : BitVec 6) : (n.setWidth 64).setWidth 6 = n :=
  (BitVec.setWidth_setWidth_of_le n (by decide)).trans (BitVec.setWidth_eq n)

/-- A 32-bit shift uses the whole of a constant amount below 32. -/
theorem amount32_shiftLow (sa : BitVec 5) : ((shiftLow sa).setWidth 64).setWidth 5 = sa := by
  rw [BitVec.setWidth_setWidth_of_le _ (by decide), shiftLow, BitVec.setWidth_setWidth_of_le _ (by decide),
    BitVec.setWidth_eq]

/-! ## The value of each shift kind, by its amount (R330) -/

section
variable (a : Word) {b : Word} {n : Nat}

theorem computeAlu_sll32 (h : (b.setWidth 5).toNat = n) :
    computeAlu .sll32 a b = some ((a.extractLsb' 0 32 <<< n).signExtend 64) := by
  rw [computeAlu, low32_eq, h, word32]

theorem computeAlu_srl32 (h : (b.setWidth 5).toNat = n) :
    computeAlu .srl32 a b = some ((a.extractLsb' 0 32 >>> n).signExtend 64) := by
  rw [computeAlu, low32_eq, h, word32]

theorem computeAlu_sra32 (h : (b.setWidth 5).toNat = n) :
    computeAlu .sra32 a b = some (((a.extractLsb' 0 32).sshiftRight n).signExtend 64) := by
  rw [computeAlu, low32_eq, h, word32]

theorem computeAlu_sll64 (h : (b.setWidth 6).toNat = n) : computeAlu .sll64 a b = some (a <<< n) := by
  rw [computeAlu, h]

theorem computeAlu_srl64 (h : (b.setWidth 6).toNat = n) : computeAlu .srl64 a b = some (a >>> n) := by
  rw [computeAlu, h]

theorem computeAlu_sra64 (h : (b.setWidth 6).toNat = n) : computeAlu .sra64 a b = some (a.sshiftRight n) := by
  rw [computeAlu, h]

end

/-! ## The shifts (R335 to R349) -/

/-- Settles O45: each form is its kind, by the constant or the constant and 32. -/
theorem constantShifts : Obligations.ConstantShifts := fun _ rt rd sa =>
  have n32 := congrArg BitVec.toNat (amount32_shiftLow sa)
  have n64 := (congrArg BitVec.toNat (amount64_sa (shiftLow sa))).trans (shiftLow_toNat sa)
  have n64High := (congrArg BitVec.toNat (amount64_sa (shiftHigh sa))).trans (shiftHigh_toNat sa)
  ⟨completesWriting_alu (shiftOp .sll32 rd rt (shiftLow sa)) rfl rfl (computeAlu_sll32 _ n32),
    completesWriting_alu (shiftOp .srl32 rd rt (shiftLow sa)) rfl rfl (computeAlu_srl32 _ n32),
    completesWriting_alu (shiftOp .sra32 rd rt (shiftLow sa)) rfl rfl (computeAlu_sra32 _ n32),
    completesWriting_alu (shiftOp .sll64 rd rt (shiftLow sa)) rfl rfl (computeAlu_sll64 _ n64),
    completesWriting_alu (shiftOp .srl64 rd rt (shiftLow sa)) rfl rfl (computeAlu_srl64 _ n64),
    completesWriting_alu (shiftOp .sra64 rd rt (shiftLow sa)) rfl rfl (computeAlu_sra64 _ n64),
    completesWriting_alu (shiftOp .sll64 rd rt (shiftHigh sa)) rfl rfl (computeAlu_sll64 _ n64High),
    completesWriting_alu (shiftOp .srl64 rd rt (shiftHigh sa)) rfl rfl (computeAlu_srl64 _ n64High),
    completesWriting_alu (shiftOp .sra64 rd rt (shiftHigh sa)) rfl rfl (computeAlu_sra64 _ n64High)⟩

/-- Settles O46: each form is its kind, by the low five or six bits of the register. -/
theorem variableShifts : Obligations.VariableShifts := fun s rs rt rd =>
  have n32 : ((s.readX rs).setWidth 5).toNat = (s.readX rs).toNat % 32 := BitVec.toNat_setWidth 5 _
  have n64 : ((s.readX rs).setWidth 6).toNat = (s.readX rs).toNat % 64 := BitVec.toNat_setWidth 6 _
  ⟨completesWriting_alu (aluRegOp .sll32 rd rt rs) rfl rfl (computeAlu_sll32 _ n32),
    completesWriting_alu (aluRegOp .srl32 rd rt rs) rfl rfl (computeAlu_srl32 _ n32),
    completesWriting_alu (aluRegOp .sra32 rd rt rs) rfl rfl (computeAlu_sra32 _ n32),
    completesWriting_alu (aluRegOp .sll64 rd rt rs) rfl rfl (computeAlu_sll64 _ n64),
    completesWriting_alu (aluRegOp .srl64 rd rt rs) rfl rfl (computeAlu_srl64 _ n64),
    completesWriting_alu (aluRegOp .sra64 rd rt rs) rfl rfl (computeAlu_sra64 _ n64)⟩

/-! ## Halves of an exact number -/

theorem natCast_toNat_ofInt (w : Nat) (t : Int) : ((BitVec.ofInt w t).toNat : Int) = t % 2 ^ w := by
  rw [BitVec.toNat_ofInt, Int.toNat_of_nonneg (Int.emod_nonneg _ (by positivity)), Nat.cast_pow, Nat.cast_ofNat]

/-- The low bits of a number are the same in any wider form of it. -/
theorem extractLsb'_ofInt_low {v w : Nat} (h : v ≤ w) (t : Int) :
    (BitVec.ofInt w t).extractLsb' 0 v = BitVec.ofInt v t := by
  rw [← BitVec.setWidth_eq_extractLsb' h]
  apply BitVec.eq_of_toNat_eq
  zify
  rw [BitVec.toNat_setWidth, Int.natCast_emod, natCast_toNat_ofInt, natCast_toNat_ofInt, Nat.cast_pow,
    Nat.cast_ofNat, Int.emod_emod_of_dvd t (pow_dvd_pow 2 h)]

/-- The upper half of a number is its quotient by the weight of that half, rounded down. -/
theorem extractLsb'_ofInt_high (w : Nat) (t : Int) :
    (BitVec.ofInt (w + w) t).extractLsb' w w = BitVec.ofInt w (t / 2 ^ w) := by
  apply BitVec.eq_of_toNat_eq
  zify
  rw [BitVec.extractLsb'_toNat, Nat.shiftRight_eq_div_pow, Int.natCast_emod, Int.natCast_ediv,
    natCast_toNat_ofInt, natCast_toNat_ofInt, Nat.cast_pow, Nat.cast_ofNat]
  calc t % 2 ^ (w + w) / 2 ^ w % 2 ^ w
      = (t - 2 ^ w * (2 ^ w * (t / 2 ^ (w + w)))) / 2 ^ w % 2 ^ w := by rw [Int.emod_def t, pow_add, mul_assoc]
    _ = (t / 2 ^ w - 2 ^ w * (t / 2 ^ (w + w))) % 2 ^ w := by rw [Int.sub_mul_ediv_left _ _ (by positivity)]
    _ = t / 2 ^ w % 2 ^ w := Int.sub_mul_emod_self_left ..

/-! ## A multiply or divide, by the pair it computes (R331, R332) -/

theorem completesHiLo_mulDiv {i : Instr} {s : State} {c : DivCorner} {hi lo : Word} (op : MulDivOp)
    (hexec : exec i s = finish (runMulDiv op s)) (hc : s.cfg.divCorner = c)
    (h : computeMulDiv c op.kind (s.operand op.src1) (s.operand op.src2) = (hi, lo)) :
    CompletesHiLo i s hi lo :=
  completesHiLo_of (by rw [hexec, runMulDiv, hc, h]; rfl)

/-! ## The multiplies (R350, R351, R354, R355) -/

theorem sext32_ofInt_eq (t : Int) : sext32 (BitVec.ofInt 64 t) = (BitVec.ofInt 32 t).signExtend 64 := by
  rw [sext32_eq, extractLsb'_ofInt_low (by decide)]

theorem product32_ofInt (t : Int) : product32 (BitVec.ofInt 64 t)
    = ((BitVec.ofInt 32 (t / 2 ^ 32)).signExtend 64, (BitVec.ofInt 32 t).signExtend 64) := by
  rw [product32, sext32_ofInt_eq, sext32, BitVec.setWidth_ushiftRight_eq_extractLsb, extractLsb'_ofInt_high 32]

theorem product32_ofNat (n : Nat) : product32 (BitVec.ofNat 64 n)
    = ((BitVec.ofNat 32 (n / 2 ^ 32)).signExtend 64, (BitVec.ofNat 32 n).signExtend 64) := by
  simpa only [← BitVec.ofInt_natCast, Int.natCast_ediv, Nat.cast_pow, Nat.cast_ofNat] using product32_ofInt n

theorem product64_ofInt (t : Int) :
    product64 (BitVec.ofInt 128 t) = (BitVec.ofInt 64 (t / 2 ^ 64), BitVec.ofInt 64 t) := by
  rw [product64, extractLsb'_ofInt_high 64, extractLsb'_ofInt_low (by decide)]

theorem product64_ofNat (n : Nat) :
    product64 (BitVec.ofNat 128 n) = (BitVec.ofNat 64 (n / 2 ^ 64), BitVec.ofNat 64 n) := by
  simpa only [← BitVec.ofInt_natCast, Int.natCast_ediv, Nat.cast_pow, Nat.cast_ofNat] using product64_ofInt n

/-- Settles O47: the pair of each kind is the two halves of its product. -/
theorem multiply : Obligations.Multiply := by
  intro s rs rt
  simp only [← s32_eq, ← u32_eq]
  exact ⟨completesHiLo_mulDiv (mulDivOp .mult32 rs rt) rfl rfl (product32_ofInt _),
    completesHiLo_mulDiv (mulDivOp .multu32 rs rt) rfl rfl (product32_ofNat _),
    completesHiLo_mulDiv (mulDivOp .mult64 rs rt) rfl rfl (product64_ofInt _),
    completesHiLo_mulDiv (mulDivOp .multu64 rs rt) rfl rfl (product64_ofNat _)⟩

/-! ## The divides, outside the corners and in them (R332, R352, R353, R356, R357) -/

theorem truncatedDivision_tdiv_tmod (a : Int) {b : Int} (hb : b ≠ 0) :
    truncatedDivision a b (a.tdiv b) (a.tmod b) := by
  refine ⟨(Int.tdiv_mul_add_tmod a b).symm, ?_, ?_⟩
  · rw [Int.natAbs_tmod]
    exact Nat.mod_lt _ (Int.natAbs_pos.mpr hb)
  · by_cases hd : b ∣ a
    · exact .inl (Int.tmod_eq_zero_of_dvd hd)
    · exact .inr ((Int.sign_tmod a b).trans (if_neg hd))

theorem division32_eq (rem quot : Int) : division32 rem quot
    = ((BitVec.ofInt 32 rem).signExtend 64, (BitVec.ofInt 32 quot).signExtend 64) := by
  rw [division32, sext32_ofInt_eq, sext32_ofInt_eq]

section
variable {c : DivCorner} {a b : Word}

theorem computeMulDiv_div32_zero (h : s32 b = 0) : computeMulDiv c .div32 a b = divideByZero c .div32 a :=
  if_pos h

theorem computeMulDiv_divu32_zero (h : u32 b = 0) : computeMulDiv c .divu32 a b = divideByZero c .divu32 a :=
  if_pos h

theorem computeMulDiv_div64_zero (h : b = 0#64) : computeMulDiv c .div64 a b = divideByZero c .div64 a :=
  if_pos (s64_eq_zero_iff.mpr h)

theorem computeMulDiv_divu64_zero (h : b = 0#64) : computeMulDiv c .divu64 a b = divideByZero c .divu64 a :=
  if_pos (u64_eq_zero_iff.mpr h)

theorem computeMulDiv_div32_overflow (ha : s32 a = -2 ^ 31) (hb : s32 b = -1) :
    computeMulDiv c .div32 a b = divideOverflow c .div32 :=
  (if_neg (by omega)).trans (if_pos ⟨ha, hb⟩)

theorem computeMulDiv_div64_overflow (ha : s64 a = -2 ^ 63) (hb : s64 b = -1) :
    computeMulDiv c .div64 a b = divideOverflow c .div64 :=
  (if_neg (by omega)).trans (if_pos ⟨ha, hb⟩)

theorem computeMulDiv_div32 (hz : s32 b ≠ 0) (ho : ¬ (s32 a = -2 ^ 31 ∧ s32 b = -1)) :
    computeMulDiv c .div32 a b = ((BitVec.ofInt 32 ((s32 a).tmod (s32 b))).signExtend 64,
      (BitVec.ofInt 32 ((s32 a).tdiv (s32 b))).signExtend 64) := by
  rw [computeMulDiv, if_neg hz, if_neg ho, division32_eq]

theorem computeMulDiv_divu32 (hz : u32 b ≠ 0) :
    computeMulDiv c .divu32 a b = ((BitVec.ofNat 32 (u32 a % u32 b)).signExtend 64,
      (BitVec.ofNat 32 (u32 a / u32 b)).signExtend 64) := by
  rw [computeMulDiv, if_neg hz, division32_eq, BitVec.ofInt_natCast, BitVec.ofInt_natCast]

theorem computeMulDiv_div64 (hz : b ≠ 0#64) (ho : ¬ (s64 a = -2 ^ 63 ∧ s64 b = -1)) :
    computeMulDiv c .div64 a b
      = (BitVec.ofInt 64 ((s64 a).tmod (s64 b)), BitVec.ofInt 64 ((s64 a).tdiv (s64 b))) :=
  (if_neg (mt s64_eq_zero_iff.mp hz)).trans (if_neg ho)

theorem computeMulDiv_divu64 (hz : b ≠ 0#64) :
    computeMulDiv c .divu64 a b = (BitVec.ofNat 64 (u64 a % u64 b), BitVec.ofNat 64 (u64 a / u64 b)) := by
  rw [computeMulDiv, if_neg (mt u64_eq_zero_iff.mp hz), division64, BitVec.ofInt_natCast, BitVec.ofInt_natCast]

end

/-- Settles O48: outside the corners each kind computes the quotient and the remainder of its numbers. -/
theorem divide : Obligations.Divide := by
  intro s rs rt
  simp only [← s32_eq, ← u32_eq]
  refine ⟨fun hz ho => ?_, fun hz => ?_, fun hz ho => ?_, fun hz => ?_⟩
  · exact ⟨_, _, truncatedDivision_tdiv_tmod _ hz,
      completesHiLo_mulDiv (mulDivOp .div32 rs rt) rfl rfl (computeMulDiv_div32 hz ho)⟩
  · exact completesHiLo_mulDiv (mulDivOp .divu32 rs rt) rfl rfl (computeMulDiv_divu32 hz)
  · exact ⟨_, _, truncatedDivision_tdiv_tmod _ (mt s64_eq_zero_iff.mp hz),
      completesHiLo_mulDiv (mulDivOp .div64 rs rt) rfl rfl (computeMulDiv_div64 hz ho)⟩
  · exact completesHiLo_mulDiv (mulDivOp .divu64 rs rt) rfl rfl (computeMulDiv_divu64 hz)

/-- What the divides leave in the corners, under the setting `c`. -/
theorem completesHiLo_corners {s : State} {c : DivCorner} (hc : s.cfg.divCorner = c) (rs rt : RegIdx) :
    (s32 (s.readX rt) = 0 → CompletesHiLo (.div rs rt) s
      (divideByZero c .div32 (s.readX rs)).1 (divideByZero c .div32 (s.readX rs)).2)
    ∧ (u32 (s.readX rt) = 0 → CompletesHiLo (.divu rs rt) s
      (divideByZero c .divu32 (s.readX rs)).1 (divideByZero c .divu32 (s.readX rs)).2)
    ∧ (s.readX rt = 0#64 →
      CompletesHiLo (.ddiv rs rt) s
        (divideByZero c .div64 (s.readX rs)).1 (divideByZero c .div64 (s.readX rs)).2
      ∧ CompletesHiLo (.ddivu rs rt) s
        (divideByZero c .divu64 (s.readX rs)).1 (divideByZero c .divu64 (s.readX rs)).2)
    ∧ (s32 (s.readX rs) = -2 ^ 31 → s32 (s.readX rt) = -1 →
      CompletesHiLo (.div rs rt) s (divideOverflow c .div32).1 (divideOverflow c .div32).2)
    ∧ (s64 (s.readX rs) = -2 ^ 63 → s64 (s.readX rt) = -1 →
      CompletesHiLo (.ddiv rs rt) s (divideOverflow c .div64).1 (divideOverflow c .div64).2) := by
  refine ⟨fun hz => ?_, fun hz => ?_, fun hz => ⟨?_, ?_⟩, fun ha hb => ?_, fun ha hb => ?_⟩
  · exact completesHiLo_mulDiv (mulDivOp .div32 rs rt) rfl hc (computeMulDiv_div32_zero hz)
  · exact completesHiLo_mulDiv (mulDivOp .divu32 rs rt) rfl hc (computeMulDiv_divu32_zero hz)
  · exact completesHiLo_mulDiv (mulDivOp .div64 rs rt) rfl hc (computeMulDiv_div64_zero hz)
  · exact completesHiLo_mulDiv (mulDivOp .divu64 rs rt) rfl hc (computeMulDiv_divu64_zero hz)
  · exact completesHiLo_mulDiv (mulDivOp .div32 rs rt) rfl hc (computeMulDiv_div32_overflow ha hb)
  · exact completesHiLo_mulDiv (mulDivOp .div64 rs rt) rfl hc (computeMulDiv_div64_overflow ha hb)

/-- Settles O49: under either setting the pair is that of `divideByZero` or `divideOverflow`, whose rows are
the table's or the free values. -/
theorem divideCorners : Obligations.DivideCorners := by
  intro s rs rt
  simp only [← s32_eq, ← u32_eq, ← sext32_eq]
  exact ⟨fun table => completesHiLo_corners table rs rt, fun free => completesHiLo_corners free rs rt⟩

end Sys2Proof.Machine

/-! # Control transfers (44_control_flow.md) -/

namespace Sys2Proof.Machine

/-! ## The target of an absolute jump (R373) -/

/-- The upper bits, the index and two zeros, as a mask and a shift: below bit 2, in the index, and above it. -/
theorem extractLsb'_append_index (v : Word) (index : BitVec 26) :
    v.extractLsb' 28 36 ++ index ++ 0#2
      = (v &&& 0xFFFFFFFFF0000000#64) ||| (index.setWidth 64 <<< 2) := by
  have hmask : 0xFFFFFFFFF0000000#64 = BitVec.allOnes 64 <<< 28 := rfl
  refine BitVec.eq_of_getLsbD_eq fun k (hk : k < 64) => ?_
  rw [hmask, BitVec.getLsbD_append, BitVec.getLsbD_append, BitVec.getLsbD_extractLsb', BitVec.getLsbD_or,
    BitVec.getLsbD_and, BitVec.getLsbD_shiftLeft, BitVec.getLsbD_allOnes, BitVec.getLsbD_shiftLeft,
    BitVec.getLsbD_setWidth]
  obtain hlow | ⟨hlow, hindex⟩ | habove : k < 2 ∨ (¬ k < 2 ∧ k < 28) ∨ 28 ≤ k := by omega
  · grind
  · grind
  · have hpos : 28 + (k - 2 - 26) = k := by omega
    have hindex : index.getLsbD (k - 2) = false := index.getLsbD_of_ge (k - 2) (by omega)
    rw [hpos, hindex]
    grind

theorem State.target_abs (s : State) (index : BitVec 26) :
    s.target (.abs index)
      = ((s.pc + 4#64) &&& 0xFFFFFFFFF0000000#64) ||| (index.setWidth 64 <<< 2) :=
  extractLsb'_append_index _ index

/-! ## The jumps (R374 to R379) -/

/-- A jump outside a delay slot enters it as taken. -/
theorem completesTransfer_jump {s : State} (hl : s.latch = none) {i : Instr} {destination : Target}
    {link : Option RegIdx} (hi : exec i s = runControlFlow (jumpOp destination link) s) :
    CompletesTransfer i s true (s.target destination) (linkList link) :=
  completesTransfer_of (hi.trans (runControlFlow_of_usable hl (.inl rfl)))

/-- Settles O50: each form is a jump by `completesTransfer_jump`, with its target and its link. -/
theorem jumps : Obligations.Jumps := by
  intro s index rs rd hl
  rw [← State.target_abs]
  exact ⟨completesTransfer_jump (link := none) hl rfl,
    completesTransfer_jump (link := some 31) hl rfl,
    completesTransfer_jump (destination := .inReg rs) (link := none) hl rfl,
    completesTransfer_jump (destination := .inReg rs) (link := some rd) hl rfl⟩

/-! ## The branches (R370 to R372, R375, R380 to R401) -/

/-- Settles O51: every form is a branch by `branchesIf_of`, with its condition on 64 bits. -/
theorem branches : Obligations.Branches := by
  intro s rs rt imm hl
  rw [← State.holds_eq, ← State.holds_ne, ← State.holds_lez, ← State.holds_gtz, ← State.holds_gez,
    ← State.holds_ltz]
  exact ⟨branchesIf_of (link := none) hl (.inl rfl) rfl,
    branchesIf_of (link := none) hl (.inl rfl) rfl,
    branchesIf_of (link := none) hl (.inl rfl) rfl,
    branchesIf_of (link := none) hl (.inl rfl) rfl,
    branchesIf_of (link := none) hl (.inl rfl) rfl,
    branchesIf_of (link := none) hl (.inl rfl) rfl,
    branchesIf_of (link := some 31) hl (.inl rfl) rfl,
    branchesIf_of (link := some 31) hl (.inl rfl) rfl⟩

theorem State.holds_copTrue (s : State) : s.holds .copTrue = s.fcsr.getLsbD 23 := rfl

theorem State.holds_copFalse (s : State) : s.holds .copFalse = !s.fcsr.getLsbD 23 := rfl

/-- Settles O53: the condition of each form reads bit 23 of `FCSR`, and `CU1` = 1 lets it. -/
theorem conditionBranches : Obligations.ConditionBranches := by
  intro s imm hl hcu
  rw [← State.holds_copFalse, ← State.holds_copTrue]
  exact ⟨branchesIf_of (link := none) hl (.inr hcu) rfl,
    branchesIf_of (link := none) hl (.inr hcu) rfl,
    branchesLikelyIf_of (link := none) hl (.inr hcu) rfl,
    branchesLikelyIf_of (link := none) hl (.inr hcu) rfl⟩

end Sys2Proof.Machine

/-! # The coprocessor-1 transfers and the two control registers (45_move.md R410, R416 to R419, R422, R423)

With `CU1` = 1 a transfer is what its location answers: a location that exists is read or written and the
instruction is done, a control register that does not exist halts the machine. -/

namespace Sys2Proof.Machine

/-! ## The control registers by number (10_state.md R52) -/

section
variable {i : RegIdx} (h0 : i ≠ 0) (h31 : i ≠ 31)
include h0 h31

theorem State.readFcr_eq_none (s : State) : s.readFcr i = none :=
  (if_neg h0).trans (if_neg h31)

theorem State.writeFcr_eq_none (s : State) (v : Word) : s.writeFcr i v = none :=
  (if_neg h0).trans (if_neg h31)

end

/-! ## A transfer by what its location answers (R410, R411) -/

section
variable {s : State} (hcu : s.cu1 = true) {i : Instr} {r : CopReg} {rt : RegIdx}
include hcu

theorem completesWriting_fromCop {v : Word} (hi : exec i s = finish (runMove (.fromCop r rt) s))
    (hr : s.readCop r = some v) : CompletesWriting i s rt v := by
  have hrun : runMove (.fromCop r rt) s = .done (s.writeX rt v) := by simp [runMove, hcu, hr]
  exact completesWriting_of (hi.trans (congrArg finish hrun))

theorem halts_fromCop (hi : exec i s = finish (runMove (.fromCop r rt) s)) (hr : s.readCop r = none) :
    Halts i s (.unsupportedFeature .fcrIndex) :=
  halts_of_fatal hi (by simp [runMove, hcu, hr])

theorem exec_toCop {u : State} (hi : exec i s = finish (runMove (.toCop rt r) s))
    (hw : s.writeCop r (s.readX rt) = some u) : exec i s = .next u.advance := by
  have hrun : runMove (.toCop rt r) s = .done u := by simp [runMove, hcu, hw]
  exact hi.trans (congrArg finish hrun)

theorem halts_toCop (hi : exec i s = finish (runMove (.toCop rt r) s))
    (hw : s.writeCop r (s.readX rt) = none) : Halts i s (.unsupportedFeature .fcrIndex) :=
  halts_of_fatal hi (by simp [runMove, hcu, hw])

end

/-! ## What a done write leaves -/

/-- A write of a floating-point register holds the value in the register's width. -/
theorem completes_writeF {i : Instr} {s : State} {fs : RegIdx} {v : Word}
    (h : exec i s = .next (s.writeF fs v).advance) :
    Completes i s { f := [fs] } (fun t => t.readF fs = fitWidth s.cfg.fprWidth v) :=
  completes_of h rfl rfl rfl (frame_writeF_pi s s.pi fs v (.inr rfl)) (s.readF_writeF_self fs v)

theorem completes_writeFcsr {i : Instr} {s : State} {v : Word}
    (h : exec i s = .next ({ s with fcsr := v } : State).advance) :
    Completes i s { fcsr := true } (fun t => t.fcsr = v) :=
  completes_of h rfl rfl rfl
    ⟨fun _ _ => rfl, fun _ _ => rfl, fun _ _ => rfl, fun _ => rfl, fun _ => rfl, fun _ => rfl,
      fun e => (by cases e), fun _ _ => rfl, fun _ => rfl, rfl, rfl, rfl, rfl⟩ rfl

/-- Settles O57: every floating-point register exists, and of the control registers 0 and 31 alone. -/
theorem cop1Moves : Obligations.Cop1Moves := fun s rt fs hcu =>
  ⟨completesWriting_fromCop hcu (r := .f fs) rfl rfl,
    completesWriting_fromCop hcu (r := .f fs) rfl rfl,
    completes_writeF (exec_toCop hcu (r := .f fs) rfl rfl),
    completes_writeF (exec_toCop hcu (r := .f fs) rfl rfl),
    completesWriting_fromCop hcu (r := .fc 0) rfl rfl,
    completesWriting_fromCop hcu (r := .fc 31) rfl rfl,
    completes_nothing (exec_toCop hcu (r := .fc 0) (rt := rt) rfl rfl),
    completes_writeFcsr (exec_toCop hcu (r := .fc 31) rfl rfl),
    fun h0 h31 => ⟨halts_fromCop hcu (r := .fc fs) rfl (s.readFcr_eq_none h0 h31),
      halts_toCop hcu (r := .fc fs) rfl (s.writeFcr_eq_none h0 h31 _)⟩⟩

end Sys2Proof.Machine

/-! # System instructions and the words no unit executes (46_system.md)

A trap is its comparison, `ERET` is `State.returnFromException`, and every other form either raises, or halts,
or does nothing, in every state. -/

namespace Sys2Proof.Machine

/-! ## The traps (R434 to R446) -/

/-- A trap whose condition fails is done (R434). -/
theorem finish_trap_done {c : TrapCond} {a : RegIdx} {o : Opnd} {s : State}
    (h : ¬ trapHolds c (s.readX a) (s.operand o) = true) :
    finish (runSystem (.trap c a o) s) = .next s.advance := by
  rw [runSystem, if_neg h]
  rfl

theorem trapsIf_of {i : Instr} {s : State} {c : TrapCond} {a : RegIdx} {o : Opnd} {P : Prop}
    (hi : exec i s = finish (runSystem (.trap c a o) s))
    (hP : trapHolds c (s.readX a) (s.operand o) = true ↔ P) : TrapsIf i s P :=
  ⟨fun h => hi.trans (finish_trap (hP.mpr h)),
    fun h => completes_nothing (hi.trans (finish_trap_done (mt hP.mp h)))⟩

/-! ### The comparisons, on all 64 bits -/

section
variable (p q : Word)

theorem trapHolds_ge : trapHolds .ge p q = true ↔ p.toInt ≥ q.toInt := decide_eq_true_iff

theorem trapHolds_geu : trapHolds .geu p q = true ↔ p.toNat ≥ q.toNat := decide_eq_true_iff

theorem trapHolds_lt : trapHolds .lt p q = true ↔ p.toInt < q.toInt := decide_eq_true_iff

theorem trapHolds_ltu : trapHolds .ltu p q = true ↔ p.toNat < q.toNat := decide_eq_true_iff

theorem trapHolds_eq : trapHolds .eq p q = true ↔ p = q := beq_iff_eq

theorem trapHolds_ne : trapHolds .ne p q = true ↔ p ≠ q := bne_iff_ne

end

/-- Settles O31: each form is a trap by `trapsIf_of`, with its comparison of the two registers. -/
theorem registerTraps : Obligations.RegisterTraps := fun _ _ _ =>
  ⟨trapsIf_of rfl (trapHolds_ge _ _), trapsIf_of rfl (trapHolds_geu _ _),
    trapsIf_of rfl (trapHolds_lt _ _), trapsIf_of rfl (trapHolds_ltu _ _),
    trapsIf_of rfl (trapHolds_eq _ _), trapsIf_of rfl (trapHolds_ne _ _)⟩

/-- Settles O32: each form is a trap by `trapsIf_of`, with its comparison of the register and the sign-extended
immediate, whose signed value is the immediate's. -/
theorem immediateTraps : Obligations.ImmediateTraps := by
  intro s rs imm
  rw [← s64_sextImm imm]
  exact ⟨trapsIf_of rfl (trapHolds_ge _ _), trapsIf_of rfl (trapHolds_geu _ _),
    trapsIf_of rfl (trapHolds_lt _ _), trapsIf_of rfl (trapHolds_ltu _ _),
    trapsIf_of rfl (trapHolds_eq _ _), trapsIf_of rfl (trapHolds_ne _ _)⟩

/-! ## Return from an exception (R454) -/

section
variable (s : State)

/-- The bit of Status that `ERET` clears: `ERL` where it is set, else `EXL`. -/
def State.levelBit : Nat := if s.erl then 2 else 1

theorem State.returnFromException_eq :
    s.returnFromException = { s.setC0 12 (insertField s.status s.levelBit 0#1) with
      pc := toPc s.cfg (if s.erl then s.errorEpc else s.epc), llbit := false } := by
  unfold State.returnFromException State.levelBit
  split <;> rfl

theorem State.returnFromException_c0 :
    s.returnFromException.c0 = (s.setC0 12 (insertField s.status s.levelBit 0#1)).c0 := by
  rw [State.returnFromException_eq]

theorem State.readC0_returnFromException_ne {i : RegIdx} (h : i ≠ 12) :
    s.returnFromException.readC0 i = s.readC0 i :=
  (State.readC0_congr s.returnFromException_c0 i).trans (s.readC0_setC0_ne _ h)

/-- A bit of Status after `ERET`: the level bit is 0, the others are as before. -/
theorem State.getLsbD_returnFromException_status (k : Nat) :
    s.returnFromException.status.getLsbD k = (decide (k ≠ s.levelBit) && s.status.getLsbD k) := by
  have hlevel : s.levelBit < 32 := by unfold State.levelBit; split <;> decide
  have hw := RegWidth_bits_bounds s.cfg.cp0Width
  unfold State.status
  rw [State.readC0_congr s.returnFromException_c0 12, State.getLsbD_setC0_self]
  by_cases hslot : k < s.cfg.cp0Width.bits
  · rw [if_pos hslot, getLsbD_insertField _ _ _ (by omega)]
    by_cases hk : k = s.levelBit
    · simp [hk]
    · rw [if_neg (by omega)]
      simp [hk, State.status]
  · rw [if_neg hslot]
    simp [show k ≠ s.levelBit by omega]

/-- `ERET` writes the program counter, the system-control registers and the load-linked flag alone, and leaves
the block. -/
theorem State.returnFromException_leaveBlock_frame (hl : s.latch = none) :
    s.returnFromException.leaveBlock = { s with
      pc := s.returnFromException.pc, c0 := s.returnFromException.c0, llbit := false, block := [] } := by
  rw [State.returnFromException_eq, State.leaveBlock, ← hl]
  rfl

theorem exec_eret (hl : s.latch = none) :
    exec .eret s = .next s.returnFromException.leaveBlock :=
  congrArg finish (if_neg (by simp [hl]))

/-- What `ERET` leaves where `level` is its level bit and `target` the register it returns to. -/
theorem State.returnFromException_clears {level : Nat} {target : Word} (hlevel : s.levelBit = level)
    (htarget : (if s.erl then s.errorEpc else s.epc) = target) :
    s.returnFromException.pc = toPc s.cfg target ∧ s.returnFromException.status.getLsbD level = false
      ∧ ∀ k, k ≠ level → s.returnFromException.status.getLsbD k = s.status.getLsbD k := by
  refine ⟨by rw [s.returnFromException_pc, htarget], ?_, fun k hk => ?_⟩
  · simp [s.getLsbD_returnFromException_status, hlevel]
  · simp [s.getLsbD_returnFromException_status, hlevel, hk]

end

/-- Settles O34: the step is `State.returnFromException`, whose level and target are those of `ERL`. -/
theorem exceptionReturn : Obligations.ExceptionReturn := by
  intro s hl
  refine ⟨_, exec_eret s hl, s.returnFromException_leaveBlock_frame hl,
    fun _ => s.readC0_returnFromException_ne, fun herl => ?_, fun herl => ?_⟩
  · exact s.returnFromException_clears (if_pos herl) (if_pos herl)
  · have hoff := ne_true_of_eq_false herl
    exact s.returnFromException_clears (if_neg hoff) (if_neg hoff)

/-! ## The other system operations, and the words no unit executes (R430 to R433, R450 to R453, R457) -/

/-- An operation that only raises does so in every state. -/
theorem raises_of_raise {i : Instr} {s : State} {k : ExcKind} {ce : BitVec 2}
    (hi : exec i s = finish (raise k ce s)) : Raises i s (excCode k) ce := hi

/-- Settles O30: the first two raise `Sys` and `Bp`, the others are done at once. -/
theorem systemOperations : Obligations.SystemOperations := fun _ =>
  ⟨fun _ => raises_of_raise (k := .sys) rfl, fun _ => raises_of_raise (k := .bp) rfl,
    fun _ _ _ => completes_nothing rfl, completes_nothing rfl⟩

/-- Settles O40: `runSystem` is fatal on each TLB operation, and `runUnimplemented` on the marker of
coprocessor-1 arithmetic, before anything else is looked at. -/
theorem unsupportedUnits : Obligations.UnsupportedUnits := fun _ =>
  ⟨halts_of_fatal rfl rfl, halts_of_fatal rfl rfl, halts_of_fatal rfl rfl, halts_of_fatal rfl rfl,
    halts_of_fatal rfl rfl, halts_of_fatal rfl rfl, halts_of_fatal rfl rfl, halts_of_fatal rfl rfl⟩

end Sys2Proof.Machine

/-! # Exceptions, and what every running machine does (60_exceptions.md R480 to R482; 70_reset_and_hazards.md
R512, R513, R530)

Exception entry is given field by field: what EPC holds, and each bit of Cause and of Status. The step after it
forms a block at the vector, and the first fetch of that block is fatal. -/

namespace Sys2Proof.Machine

/-! ## Exception entry (R480, R481) -/

section
variable (s : State) (code : BitVec 5) (ce : BitVec 2)

/-- A bit of Cause that is in none of `BD`, `CE` and `ExcCode` is kept, in a slot of any width. -/
theorem State.getLsbD_enterException_cause_of_not_mem {k : Nat} (hbd : k ≠ 31) (hcode : ¬ (2 ≤ k ∧ k ≤ 6))
    (hce : ¬ (28 ≤ k ∧ k ≤ 29)) : (s.enterException code ce).cause.getLsbD k = s.cause.getLsbD k := by
  have hw := RegWidth_bits_bounds s.cfg.cp0Width
  rw [State.getLsbD_enterException_cause]
  split
  · rw [State.entryCause, getLsbD_insertField _ _ _ (by omega), if_neg (by omega),
      getLsbD_insertField _ _ _ (by omega), if_neg (by omega), getLsbD_insertField _ _ _ (by omega),
      if_neg (by omega)]
  · rfl

/-- Where `EXL` is set, EPC is kept: what entry writes is what the slot held. -/
theorem State.enterException_epc_of_exl (h : s.exl = true) : (s.enterException code ce).epc = s.epc := by
  rw [State.enterException_epc, State.entryEpc, if_pos h]
  exact fitWidth_fitWidth _ _

/-- Where `EXL` is clear, the presence of the latch says `BD`. -/
theorem State.enterException_bd_of_not_exl (h : s.exl = false) :
    (s.enterException code ce).cause.getLsbD 31 = s.latch.isSome := by
  rw [State.enterException_bd, h]
  rfl

theorem State.entryEpc_of_latch_none (h : s.exl = false) (hl : s.latch = none) : s.entryEpc = s.pc := by
  rw [State.entryEpc, h, hl]
  rfl

theorem State.entryEpc_of_latch_some (h : s.exl = false) {b : PendingBranch} (hl : s.latch = some b) :
    s.entryEpc = b.ctAddr := by
  rw [State.entryEpc, h, hl]
  rfl

theorem State.enterException_pc_of_bev {bev : Bool} (h : s.bev = bev) :
    (s.enterException code ce).pc = toPc s.cfg (s.cfg.excVector bev) :=
  h ▸ s.enterException_pc code ce

end

/-- Settles O28, from one lemma for each field that entry writes; the frame is the definition of entry. -/
theorem exceptionEntry : Obligations.ExceptionEntry := by
  intro s code ce
  refine ⟨fun hexl hl => ⟨?_, ?_⟩, fun hexl b hl => ⟨?_, ?_⟩, fun hexl => ⟨?_, ?_⟩,
    s.enterException_excCode code ce, s.enterException_ce code ce,
    fun _ => s.getLsbD_enterException_cause_of_not_mem code ce, s.enterException_exl code ce, fun k hk => ?_,
    s.enterException_pc_of_bev code ce, s.enterException_pc_of_bev code ce, rfl, rfl, rfl, rfl,
    fun _ => s.readC0_enterException_ne code ce, rfl⟩
  · rw [State.enterException_epc, s.entryEpc_of_latch_none hexl hl]
  · rw [s.enterException_bd_of_not_exl code ce hexl, hl, Option.isSome_none]
  · rw [State.enterException_epc, s.entryEpc_of_latch_some hexl hl]
  · rw [s.enterException_bd_of_not_exl code ce hexl, hl, Option.isSome_some]
  · exact s.enterException_epc_of_exl code ce hexl
  · rw [State.enterException_bd, if_pos hexl]
  · rw [State.getLsbD_enterException_status, decide_eq_false hk, Bool.false_or]

/-! ## The step after an exception (R482) -/

section
variable {s : State} {a : Word} (ha : a.toNat % 4 = 0)
include ha

theorem fetch_unmapped (h : physical s.cfg a 4 = none) :
    fetch a s = .fatal (.unsupportedFeature .unmappedSegment) s := by
  rw [fetch, isAligned_iff.mpr ha, routerRead_unmapped h]
  rfl

theorem fetch_unbacked {pa : Nat} (h : physical s.cfg a 4 = some pa) (hd : dispatch s.cfg pa 4 = none) :
    fetch a s = .fatal (.memoryFault (.address pa)) s := by
  rw [fetch, isAligned_iff.mpr ha, routerRead, h]
  simp only [physRead, hd]
  rfl

end

theorem step_of_block_nil {s : State} (hp : s.phase = .running) (hb : s.block = []) :
    step s = .next (formBlock s) := by
  simp only [step, hp, hb]

/-- A machine that must form a block and cannot fetch its first word halts, and nothing else changes. -/
theorem step_of_fetch_fatal {s : State} {f : Fatal} (hp : s.phase = .running) (hb : s.block = [])
    (hlimit : 0 < s.cfg.blockScanLimit) (hf : fetch s.pc s = .fatal f s) :
    step s = .next { s with phase := .halted f } := by
  obtain ⟨n, hn⟩ := Nat.exists_eq_add_one.mpr hlimit
  have hscan : findBlock s.pc s = .fatal f s := by
    rw [findBlock, hn, scanBlock, hf]
  rw [step_of_block_nil hp hb, formBlock, hscan]
  rfl

/-- The vector for `BEV` = 0 is below the uncached kernel window, whatever the base of the window. -/
theorem fetch_excVector0 (s : State) :
    fetch 0xFFFFFFFF80000180#64 s = .fatal (.unsupportedFeature .unmappedSegment) s := by
  refine fetch_unmapped (by decide) (Option.eq_none_iff_forall_ne_some.mpr fun pa hpa => ?_)
  obtain ⟨hwindow, -⟩ := physical_eq_some.mp hpa
  exact absurd hwindow (by decide)

/-- The vector for `BEV` = 1 is in the window, at a physical address that no row of the dispatch table has. -/
theorem fetch_excVector1 {s : State} (hbase : s.cfg.kseg1Base = 0xA0000000#32) :
    fetch 0xFFFFFFFFBFC00380#64 s = .fatal (.memoryFault (.address 0x1FC00380)) s := by
  have hram := ramSize_le s.cfg
  refine fetch_unbacked (by decide) (physical_eq_some.mpr ?_)
    (dispatch_none (by decide) (by omega) (by decide) (by decide))
  rw [hbase]
  decide

/-- Settles O29: both vectors are sign extensions of 32 bits, so a program counter of any width holds them,
and the fetch at each is fatal. -/
theorem exceptionThenHalt : Obligations.ExceptionThenHalt := by
  intro s code ce hp hlimit
  have hhalt : ∀ {v : BitVec 32} {f : Fatal}, s.cfg.excVector s.bev = v.signExtend 64 →
      fetch (v.signExtend 64) (s.enterException code ce) = .fatal f (s.enterException code ce) →
      step (s.enterException code ce) = .next { s.enterException code ce with phase := .halted f } := by
    intro v f hv hf
    refine step_of_fetch_fatal hp rfl hlimit ?_
    rwa [State.enterException_pc, hv, toPc_signExtend]
  refine ⟨fun hbev hvec => ?_, fun hbev hvec hbase => ?_⟩
  · exact hhalt (v := 0x80000180#32) (by rw [hbev]; exact hvec) (fetch_excVector0 _)
  · exact hhalt (v := 0xBFC00380#32) (by rw [hbev]; exact hvec) (fetch_excVector1 hbase)

/-! ## Every running machine steps (70_reset_and_hazards.md R530) -/

theorem execIr_eq_next (d : Decoded) (s : State) : ∃ t, execIr d s = .next t := by
  obtain ⟨t, ht, -⟩ := execIr_step d s
  exact ⟨t, ht⟩

/-- Settles O11: forming a block is a function of the state, and the engine answers a next state for
everything a word decodes to (`execIr_step`). -/
theorem runningAlwaysSteps : Obligations.RunningAlwaysSteps := by
  refine ⟨fun s hp => ?_, fun i s => exec_eq_execIr i s ▸ execIr_eq_next i.ir s⟩
  cases hb : s.block with
  | nil => exact ⟨formBlock s, step_of_block_nil hp hb⟩
  | cons e rest =>
    rw [step_head hp hb, execWord_eq_execIr]
    exact execIr_eq_next (decodeIr e.word) s

/-! ## The boot stages (70_reset_and_hazards.md R512, R513) -/

theorem step_of_reset {s : State} (h : s.phase = .reset) : step s = .next (bootStage1 s) := by
  simp only [step, h]

theorem step_of_boot1Done {s : State} (h : s.phase = .boot1Done) : step s = .next (bootStage2 s) := by
  simp only [step, h]

/-- Boot stage two with a cartridge that is too short. -/
theorem bootStage2_of_short {s : State} (h : s.cart.length < 4096) :
    bootStage2 s = { s with phase := .halted .bootFailure } := if_pos h

/-- Settles O58: Status and Config go through their write masks, which lie in a slot of any width. -/
theorem bootStageOne : Obligations.BootStageOne := by
  refine ⟨fun s hp => ?_, fun t hstep => ?_⟩
  · exact ⟨bootStage1 s, step_of_reset hp, rfl, fun _ => bootStage1_readC0_ne s, bootStage1_readC0_status s,
      bootStage1_readC0_config s⟩
  · obtain rfl : bootStage1 State.reset = t := Host.Outcome.next.inj ((step_of_reset rfl).symm.trans hstep)
    rw [bootStage1_readC0_status, bootStage1_readC0_config, bootStage1_readX]
    decide

/-- Settles O59: the window is all of DMEM, so RAM and IMEM lie outside it (`bootStage2_mem_out`). -/
theorem bootStageTwo : Obligations.BootStageTwo := by
  intro s hp
  refine ⟨fun hlen => ?_, fun hshort => ?_⟩
  · have hpc : (bootStage2 s).pc = Config.bootEntryPc s.cfg.bootEntry := by rw [bootStage2_of_cart hlen]
    refine ⟨bootStage2 s, step_of_boot1Done hp, ?_, fun he => ?_, fun he => ?_,
      fun hwf _ => bootStage2_dmem hlen hwf, fun i _ => ?_, fun a ha => ?_⟩
    · rw [bootStage2_of_cart hlen]
    · rw [hpc, he]; rfl
    · rw [hpc, he]; rfl
    · exact bootStage2_mem_out hlen (.inr (Nat.le_add_right _ i))
    · exact bootStage2_mem_out hlen (.inl ha)
  · rw [step_of_boot1Done hp, bootStage2_of_short hshort]

end Sys2Proof.Machine
